-- ==== Sys2Proof/Word.lean ====
section
/-! DEFINITION. The word types of the FSR: bytes, 16-bit lengths and offsets, 32-bit command and data words (00_scope.md R5, R6, R10). -/

namespace Sys2Proof

/-- One byte on `rx`, in a data register or in the payload buffer (R5). -/
abbrev Byte := BitVec 8

/-- A 16-bit length, count or `FREAD` offset (R5, R6). -/
abbrev Half := BitVec 16

/-- A 32-bit `ctl` command word, event data word or field result (R6). -/
abbrev Word := BitVec 32

/-- The 12-bit key `{st, b}` against which an `Rx` operation is decoded (30_encoding.md R64). -/
abbrev RxKey := BitVec 12

end Sys2Proof
end

