-- ==== Sys2Proof/Syntax.lean ====
section
/-! DEFINITION. The nine states of the frame assembler and the operations of spec/opcode_table.json, one constructor a row. -/

namespace Sys2Proof

/-- The state register's nine values, in the source's order (10_state.md R21).
Codes 0x9 to 0xF are not values of this type (93 I8). -/
inductive St where
  | waitSync1 | waitSync2 | cls | id | lenLo | lenHi | payload | ckA | ckB
deriving DecidableEq, Repr

/-- One operation the FSR decodes: an `Rx` in one of the nine states, with the byte received, or a `ctl` command. -/
inductive Instr where
  /-- `RX.WAIT_SYNC1` (R103). -/
  | rxWaitSync1 (b : Byte)
  /-- `RX.WAIT_SYNC2` (R104). -/
  | rxWaitSync2 (b : Byte)
  /-- `RX.CLASS` (R105). -/
  | rxClass (b : Byte)
  /-- `RX.ID` (R106). -/
  | rxId (b : Byte)
  /-- `RX.LEN_LO` (R107). -/
  | rxLenLo (b : Byte)
  /-- `RX.LEN_HI` (R108). -/
  | rxLenHi (b : Byte)
  /-- `RX.PAYLOAD` (R109). -/
  | rxPayload (b : Byte)
  /-- `RX.CK_A` (R110). -/
  | rxCkA (b : Byte)
  /-- `RX.CK_B` (R111). -/
  | rxCkB (b : Byte)
  /-- `ACK` (R160). -/
  | ack
  /-- `CANCEL` (R161). -/
  | cancel
  /-- `FREAD.U1` (R142). -/
  | freadU1 (off : Half)
  /-- `FREAD.I1` (R143). -/
  | freadI1 (off : Half)
  /-- `FREAD.U2` (R144). -/
  | freadU2 (off : Half)
  /-- `FREAD.I2` (R145). -/
  | freadI2 (off : Half)
  /-- `FREAD.U4` (R146). -/
  | freadU4 (off : Half)
  /-- `FREAD.I4` (R147). -/
  | freadI4 (off : Half)
  /-- `STATUS` (R162). -/
  | status
  /-- `ILLEGAL`: any `ctl` word that decodes to no command (R163). -/
  | illegal (w : Word)
deriving DecidableEq, Repr

end Sys2Proof
end

