-- ==== Sys2Proof/Decode.lean ====
section
/-! DEFINITION. The codes of the states, the decoder of both input formats, the encoder, and the rows of the opcode table (30_encoding.md R64 to R69, 10_state.md R21). -/

namespace Sys2Proof

/-- The 4-bit code of a state (R21). -/
def St.code : St → BitVec 4
  | .waitSync1 => 0x0#4
  | .waitSync2 => 0x1#4
  | .cls => 0x2#4
  | .id => 0x3#4
  | .lenLo => 0x4#4
  | .lenHi => 0x5#4
  | .payload => 0x6#4
  | .ckA => 0x7#4
  | .ckB => 0x8#4

/-- The state with a given code, if it is one of the nine legal codes (R21, R69). -/
def St.ofCode (c : BitVec 4) : Option St :=
  if c = 0x0#4 then some .waitSync1
  else if c = 0x1#4 then some .waitSync2
  else if c = 0x2#4 then some .cls
  else if c = 0x3#4 then some .id
  else if c = 0x4#4 then some .lenLo
  else if c = 0x5#4 then some .lenHi
  else if c = 0x6#4 then some .payload
  else if c = 0x7#4 then some .ckA
  else if c = 0x8#4 then some .ckB
  else none

/-- Why the decoder refuses a transfer. -/
inductive DecodeError where
  /-- The key's state code is one of the reserved codes 0x9 to 0xF, against which no `Rx` is decoded (R69). -/
  | reservedState (code : BitVec 4)
deriving DecidableEq, Repr

/-- The state alone selects the rule of an `Rx`; the byte is its operand (R64). -/
def decodeRx (st : St) (b : Byte) : Instr :=
  match st with
  | .waitSync1 => .rxWaitSync1 b
  | .waitSync2 => .rxWaitSync2 b
  | .cls => .rxClass b
  | .id => .rxId b
  | .lenLo => .rxLenLo b
  | .lenHi => .rxLenHi b
  | .payload => .rxPayload b
  | .ckA => .rxCkA b
  | .ckB => .rxCkB b

/-- The 12-bit key `{st[3:0], b[7:0]}` (R64). -/
def rxKey (st : St) (b : Byte) : RxKey := st.code ++ b

/-- Decoding of an RX key (R64, R69). -/
def decodeKey (key : RxKey) : Except DecodeError Instr :=
  match St.ofCode (key.extractLsb' 8 4) with
  | some st => .ok (decodeRx st (key.extractLsb' 0 8))
  | none => .error (.reservedState (key.extractLsb' 8 4))

/-- The fields of a `CTL` command word (R65). -/
structure CtlFields where
  op : BitVec 4
  rsv : BitVec 9
  sgn : BitVec 1
  wc : BitVec 2
  off : Half
deriving DecidableEq, Repr

/-- Bits 31..28, 27..19, 18, 17..16 and 15..0 of the word (R65). -/
def CtlFields.ofWord (w : Word) : CtlFields :=
  { op := w.extractLsb' 28 4
    rsv := w.extractLsb' 19 9
    sgn := w.extractLsb' 18 1
    wc := w.extractLsb' 16 2
    off := w.extractLsb' 0 16 }

/-- The word with the given fields (R65). -/
def CtlFields.toWord (f : CtlFields) : Word :=
  (f.op ++ f.rsv ++ f.sgn ++ f.wc ++ f.off : BitVec (4 + 9 + 1 + 2 + 16))

/-- Bits 27..0 are all 0, as `ACK`, `CANCEL` and `STATUS` require (R68). -/
def CtlFields.restZero (f : CtlFields) : Bool :=
  f.rsv == 0#9 && f.sgn == 0#1 && f.wc == 0#2 && f.off == 0#16

/-- The six `FREAD` forms by `wc` and `sgn`; `wc = 0b11` is reserved (R67). -/
def decodeFread (sgn : BitVec 1) (wc : BitVec 2) (off : Half) : Option Instr :=
  if wc = 0b00#2 then some (if sgn = 0#1 then .freadU1 off else .freadI1 off)
  else if wc = 0b01#2 then some (if sgn = 0#1 then .freadU2 off else .freadI2 off)
  else if wc = 0b10#2 then some (if sgn = 0#1 then .freadU4 off else .freadI4 off)
  else none

/-- The legal command with the given fields, if there is one (R66, R68, R69). -/
def decodeFields (f : CtlFields) : Option Instr :=
  if f.op = 0x1#4 then (if f.restZero then some .ack else none)
  else if f.op = 0x2#4 then (if f.restZero then some .cancel else none)
  else if f.op = 0x4#4 then (if f.restZero then some .status else none)
  else if f.op = 0x3#4 then (if f.rsv = 0#9 then decodeFread f.sgn f.wc f.off else none)
  else none

/-- Decoding of `ctl` is total: every other word is `ILLEGAL` (R69). -/
def decodeCtl (w : Word) : Instr :=
  match decodeFields (CtlFields.ofWord w) with
  | some i => i
  | none => .illegal w

/-- One input of the decoder: a key of an `Rx`, or a command word (R60). -/
inductive Transfer where
  | rx (key : RxKey)
  | ctl (w : Word)
deriving DecidableEq, Repr

/-- The decoder, total on both formats, refusing a reserved state code by name. -/
def decode : Transfer → Except DecodeError Instr
  | .rx key => decodeKey key
  | .ctl w => .ok (decodeCtl w)

/-- The word of a `FREAD` with the given signedness, width code and offset (R67). -/
def freadWord (sgn : BitVec 1) (wc : BitVec 2) (off : Half) : Word :=
  CtlFields.toWord { op := 0x3#4, rsv := 0#9, sgn := sgn, wc := wc, off := off }

/-- The transfer that carries an instruction: the RX rows' keys (R64), and the words of R66 and R67. -/
def encode : Instr → Transfer
  | .rxWaitSync1 b => .rx (rxKey .waitSync1 b)
  | .rxWaitSync2 b => .rx (rxKey .waitSync2 b)
  | .rxClass b => .rx (rxKey .cls b)
  | .rxId b => .rx (rxKey .id b)
  | .rxLenLo b => .rx (rxKey .lenLo b)
  | .rxLenHi b => .rx (rxKey .lenHi b)
  | .rxPayload b => .rx (rxKey .payload b)
  | .rxCkA b => .rx (rxKey .ckA b)
  | .rxCkB b => .rx (rxKey .ckB b)
  | .ack => .ctl 0x10000000#32
  | .cancel => .ctl 0x20000000#32
  | .freadU1 off => .ctl (freadWord 0#1 0b00#2 off)
  | .freadI1 off => .ctl (freadWord 1#1 0b00#2 off)
  | .freadU2 off => .ctl (freadWord 0#1 0b01#2 off)
  | .freadI2 off => .ctl (freadWord 1#1 0b01#2 off)
  | .freadU4 off => .ctl (freadWord 0#1 0b10#2 off)
  | .freadI4 off => .ctl (freadWord 1#1 0b10#2 off)
  | .status => .ctl 0x40000000#32
  | .illegal w => .ctl w

/-- Whether a row's patterns are RX keys or command words (R60). -/
inductive Format where
  | rx | ctl
deriving DecidableEq, Repr

/-- One row of spec/opcode_table.json: a transfer `x` of the row's format matches it when `x &&& mask = value`. -/
structure OpRow where
  mnemonic : String
  format : Format
  value : Word
  mask : Word
deriving DecidableEq, Repr

/-- The table's row for each instruction, its columns "match" and "mask" as the table prints them. -/
def Instr.row : Instr → OpRow
  | .rxWaitSync1 _ => ⟨"RX.WAIT_SYNC1", .rx, 0x000#32, 0xF00#32⟩
  | .rxWaitSync2 _ => ⟨"RX.WAIT_SYNC2", .rx, 0x100#32, 0xF00#32⟩
  | .rxClass _ => ⟨"RX.CLASS", .rx, 0x200#32, 0xF00#32⟩
  | .rxId _ => ⟨"RX.ID", .rx, 0x300#32, 0xF00#32⟩
  | .rxLenLo _ => ⟨"RX.LEN_LO", .rx, 0x400#32, 0xF00#32⟩
  | .rxLenHi _ => ⟨"RX.LEN_HI", .rx, 0x500#32, 0xF00#32⟩
  | .rxPayload _ => ⟨"RX.PAYLOAD", .rx, 0x600#32, 0xF00#32⟩
  | .rxCkA _ => ⟨"RX.CK_A", .rx, 0x700#32, 0xF00#32⟩
  | .rxCkB _ => ⟨"RX.CK_B", .rx, 0x800#32, 0xF00#32⟩
  | .ack => ⟨"ACK", .ctl, 0x10000000#32, 0xFFFFFFFF#32⟩
  | .cancel => ⟨"CANCEL", .ctl, 0x20000000#32, 0xFFFFFFFF#32⟩
  | .freadU1 _ => ⟨"FREAD.U1", .ctl, 0x30000000#32, 0xFFFF0000#32⟩
  | .freadI1 _ => ⟨"FREAD.I1", .ctl, 0x30040000#32, 0xFFFF0000#32⟩
  | .freadU2 _ => ⟨"FREAD.U2", .ctl, 0x30010000#32, 0xFFFF0000#32⟩
  | .freadI2 _ => ⟨"FREAD.I2", .ctl, 0x30050000#32, 0xFFFF0000#32⟩
  | .freadU4 _ => ⟨"FREAD.U4", .ctl, 0x30020000#32, 0xFFFF0000#32⟩
  | .freadI4 _ => ⟨"FREAD.I4", .ctl, 0x30060000#32, 0xFFFF0000#32⟩
  | .status => ⟨"STATUS", .ctl, 0x40000000#32, 0xFFFFFFFF#32⟩
  | .illegal _ => ⟨"ILLEGAL", .ctl, 0x00000000#32, 0x00000000#32⟩

/-- A command word matches a row: the masked bits equal the row's value. -/
def OpRow.matchesWord (r : OpRow) (w : Word) : Bool :=
  r.format == .ctl && (w &&& r.mask) == r.value

/-- An RX key matches a row: the masked bits equal the row's value. -/
def OpRow.matchesKey (r : OpRow) (key : RxKey) : Bool :=
  r.format == .rx && (key.setWidth 32 &&& r.mask) == r.value

/-- The instruction read from bits numbered as the opcode table numbers them.
A row of the RX format has 12 bits, so two bytes, whose top four bits must be 0; a row of the CTL format has 32 (log 13). -/
def decodeTableWord (nbits w : Nat) : Option Instr :=
  if nbits ≤ 16 then
    if w < 2 ^ 12 then
      match decode (.rx (BitVec.ofNat 12 w)) with
      | .ok i => some i
      | .error _ => none
    else none
  else if w < 2 ^ 32 then
    match decode (.ctl (BitVec.ofNat 32 w)) with
    | .ok i => some i
    | .error _ => none
  else none

end Sys2Proof
end

