-- ==== Sys2Proof/Config.lean ====
section
/-! DEFINITION. What an implementation of the FSR fixes, and the model's one free value: the build parameter `DIAG_EVENTS` (00_scope.md R7) and the order in which the two ports are served (20_memory.md R48). -/

namespace Sys2Proof

/-- The parameters of one build of the FSR: exactly one (R7).
It stands in State so that a claim over every state is a claim over both builds; no step writes it (log 8). -/
structure Config where
  /-- `DIAG_EVENTS`: a checksum failure emits a diagnostic event (R7, R201). -/
  diagEvents : Bool
deriving DecidableEq, Repr

/-- The default build, `DIAG_EVENTS = true` (00_scope.md R6, 92 D13). -/
def Config.default : Config := { diagEvents := true }

/-- FREE VALUE, no body: when both ports offer a transfer, whether the byte on `rx` is taken before the word on `ctl`.
R48: "Which one is not specified." It is applied to State's counter `arb`, so every interleaving stays open (log 6). -/
opaque Config.rxFirst : Nat → Bool

end Sys2Proof
end

