-- ==== Sys2Proof/Machine/State.lean ====
section
/-! DEFINITION. The state of the FSR and of its ports, the two spec faults, the events, the reasons a step can stop, and the state after reset (10_state.md R20 to R33). -/

namespace Sys2Proof.Machine

/-- The six data registers that hold no value after `Rst` until they are written (10_state.md R32, R33). -/
inductive Reg where
  | cls | mid | len | cnt | ckA | ckB
deriving DecidableEq, Repr

/-- Which data registers have been written since `Rst` (R32: "A model must represent it as unwritten"). -/
structure Written where
  cls : Bool
  mid : Bool
  len : Bool
  cnt : Bool
  ckA : Bool
  ckB : Bool
deriving DecidableEq, Repr

/-- No register written, as after `Rst` (R33). -/
def Written.none : Written :=
  { cls := false, mid := false, len := false, cnt := false, ckA := false, ckB := false }

/-- The two kinds of fault in the model's fault set (60_exceptions.md R204). -/
inductive FaultKind where
  /-- An illegal word, or an `ACK` or a `FREAD` with no held frame. -/
  | cmdErr
  /-- A `FREAD` outside the held payload. -/
  | fieldOob
deriving DecidableEq, Repr

/-- The model's fault set: a set of the two kinds, sticky (R204, R206). It is no hardware state. -/
structure FaultSet where
  cmdErr : Bool
  fieldOob : Bool
deriving DecidableEq, Repr

/-- The empty fault set. -/
def FaultSet.empty : FaultSet := { cmdErr := false, fieldOob := false }

/-- The events the FSR emits; the reserved codes 0x0 and 0x8 to 0xF are not among them (30_encoding.md R70). -/
inductive EvCode where
  | frame | ckaFail | ckbFail | field | status | cmdErr | fieldOob
deriving DecidableEq, Repr

/-- One event on `evt`: its code and its 32 data bits (R70). -/
structure Event where
  code : EvCode
  data : Word
deriving DecidableEq, Repr

/-- The payload buffer: the bytes written since `Rst`, as cells with strictly rising addresses (`Memory.wf`). -/
abbrev Memory := List Host.Cell

/-- The state of the model. -/
structure State where
  /-- State register: the rule the next `Rx` performs (R21). -/
  st : St
  /-- A frame has been delivered and not yet acknowledged (R22). -/
  hold : Bool
  /-- classId of the frame being assembled or held (R23). -/
  cls : Byte
  /-- msgId of the frame being assembled or held (R24). -/
  mid : Byte
  /-- Payload length of the frame being assembled or held (R25). -/
  len : Half
  /-- Number of payload bytes received so far (R26). -/
  cnt : Half
  /-- Checksum accumulator A (R27). -/
  ckA : Byte
  /-- Checksum accumulator B (R28). -/
  ckB : Byte
  /-- Payload buffer (20_memory.md R40). -/
  buf : Memory
  /-- Which data registers hold a value (R32). -/
  written : Written
  /-- MODEL's own sticky mark: a step has read a register that holds no value (R32; log 2). -/
  unwrittenRead : Bool
  /-- The event log, oldest first (30_encoding.md R70). Not an FSR register (R31). -/
  log : List Event
  /-- The model's fault set (60_exceptions.md R204). Not an FSR register (R31). -/
  faults : FaultSet
  /-- Host state: bytes offered on `rx` and not yet accepted, oldest first (R8, R31; log 5). -/
  rx : List Byte
  /-- Host state: words offered on `ctl` and not yet accepted, oldest first (R8, R31; log 5). -/
  ctl : List Word
  /-- Host state: the `rst` input is asserted (70_reset_and_hazards.md R241; log 5). -/
  rst : Bool
  /-- MODEL's own: how many choices between the two ports have been made (20_memory.md R48; log 6). -/
  arb : Nat
  /-- The build parameter; no step writes it (00_scope.md R7; log 8). -/
  cfg : Config
deriving DecidableEq, Repr

/-- Why the model stops. The spec's own faults (R204) are no stops: they are marks in `faults`, and the step goes on. -/
inductive Fault where
  /-- A read of a byte of `buf` that has not been written since `Rst` and holds no value (R32: "A read of it must be a fault").
  Raised by `FREAD` through `State.readByte`. Safe: no value is returned; no state that satisfies `Inv` reaches it (log 3). -/
  | unwrittenByte (addr : Nat)
  /-- An access to a buffer index above 65534, which does not exist (20_memory.md R40).
  Raised by `RX.PAYLOAD` and `FREAD` through `State.memWrite` and `State.readByte`. Safe: no state that satisfies `Inv` reaches it (log 11). -/
  | noSuchByte (addr : Nat)
deriving DecidableEq, Repr

/-- Why the model has no meaning for an instruction. -/
inductive Refusal where
  /-- The instruction has no meaning yet. Raised only by an arm of `exec`; no arm of this model does. Safe. -/
  | notModelled (mnemonic : String)
deriving DecidableEq, Repr

/-- The state after power-on reset of a build (10_state.md R33, 70_reset_and_hazards.md R240).
`st` and `hold` as R33 gives them; the data registers at the value 0 the model names, marked not written (log 1);
no byte of `buf` holds a value; nothing offered, nothing logged, no fault. -/
def State.resetWith (cfg : Config) : State :=
  { st := .waitSync1
    hold := false
    cls := 0#8
    mid := 0#8
    len := 0#16
    cnt := 0#16
    ckA := 0#8
    ckB := 0#8
    buf := []
    written := Written.none
    unwrittenRead := false
    log := []
    faults := FaultSet.empty
    rx := []
    ctl := []
    rst := false
    arb := 0
    cfg := cfg }

/-- The state after power-on reset of the default build. -/
def State.reset : State := State.resetWith Config.default

end Sys2Proof.Machine
end

