-- ==== Sys2Proof/Machine/Ops.lean ====
section
/-! DEFINITION. The named operations over the payload buffer, the registers, the event log and the fault set, the reporting of a condition, and power-on reset. -/

namespace Sys2Proof.Machine

/-! ## Payload buffer (20_memory.md R40 to R43) -/

/-- `PAYLOAD_CAP`: the buffer has 65535 bytes, at indices 0 to 65534 (00_scope.md R6, 20_memory.md R40). -/
def payloadCap : Nat := 65535

/-- What an index reads as that no cell lists: no value (10_state.md R32, R33; log 3). -/
def Memory.unlisted (_addr : Nat) : Option Byte := none

/-- The canonical form: strictly rising indices, each below `payloadCap`, and no cell that says what an unlisted index reads as. -/
abbrev Memory.wf (m : Memory) : Prop :=
  m.Pairwise (fun x y => x.1 < y.1) ∧ ∀ c ∈ m, c.1 < payloadCap ∧ some c.2 ≠ Memory.unlisted c.1

/-- The value of one byte of the buffer, if it has been written since `Rst`. -/
def Memory.read : Memory → Nat → Option Byte
  | [], a => Memory.unlisted a
  | c :: m, a => if c.1 = a then some c.2 else Memory.read m a

/-- The buffer with one byte written, its cells kept in rising order. -/
def Memory.write : Memory → Nat → Byte → Memory
  | [], a, v => [(a, v)]
  | c :: m, a, v =>
    if a < c.1 then (a, v) :: c :: m
    else if a = c.1 then (a, v) :: m
    else c :: Memory.write m a v

/-- The payload buffer replaced. -/
def State.setBuf (m : Memory) (s : State) : State := { s with buf := m }

/-- `MemWrite(i, 1, v)` (R11, R41): index 65535 does not exist (R40; log 11). -/
def State.memWrite (s : State) (i : Nat) (v : Byte) : Except Fault State :=
  if i < payloadCap then .ok (s.setBuf (s.buf.write i v))
  else .error (.noSuchByte i)

/-- `buf[i]` (R11): a byte that has not been written holds no value and its read is a fault (R32; log 3). -/
def State.readByte (s : State) (i : Nat) : Except Fault Byte :=
  if i < payloadCap then
    match s.buf.read i with
    | some v => .ok v
    | none => .error (.unwrittenByte i)
  else .error (.noSuchByte i)

/-! ## Registers (10_state.md R20 to R28, R32) -/

/-- Whether a data register has been written since `Rst` (R32). -/
def Written.has (w : Written) : Reg → Bool
  | .cls => w.cls
  | .mid => w.mid
  | .len => w.len
  | .cnt => w.cnt
  | .ckA => w.ckA
  | .ckB => w.ckB

/-- R32's check on a read of a data register: the sticky mark is set when the register holds no value (log 2). -/
def State.noteRead (r : Reg) (s : State) : State :=
  { s with unwrittenRead := s.unwrittenRead || !s.written.has r }

/-- `st <- S` (R11, R21). -/
def State.setSt (v : St) (s : State) : State := { s with st := v }

/-- `hold <- v` (R22). -/
def State.setHold (v : Bool) (s : State) : State := { s with hold := v }

/-- `cls <- v` (R23). -/
def State.setCls (v : Byte) (s : State) : State :=
  { s with cls := v, written := { s.written with cls := true } }

/-- `mid <- v` (R24). -/
def State.setMid (v : Byte) (s : State) : State :=
  { s with mid := v, written := { s.written with mid := true } }

/-- `len <- v` (R25). -/
def State.setLen (v : Half) (s : State) : State :=
  { s with len := v, written := { s.written with len := true } }

/-- `cnt <- v` (R26). -/
def State.setCnt (v : Half) (s : State) : State :=
  { s with cnt := v, written := { s.written with cnt := true } }

/-- `ckA <- v` (R27). -/
def State.setCkA (v : Byte) (s : State) : State :=
  { s with ckA := v, written := { s.written with ckA := true } }

/-- `ckB <- v` (R28). -/
def State.setCkB (v : Byte) (s : State) : State :=
  { s with ckB := v, written := { s.written with ckB := true } }

/-! ## Events (30_encoding.md R70, R71) -/

/-- The 4-bit code of an event (R70). -/
def EvCode.bits : EvCode → BitVec 4
  | .frame => 0x1#4
  | .ckaFail => 0x2#4
  | .ckbFail => 0x3#4
  | .field => 0x4#4
  | .status => 0x5#4
  | .cmdErr => 0x6#4
  | .fieldOob => 0x7#4

/-- `EV_FRAME`, data `{len, mid, cls}` (R71). -/
def frameEvent (len : Half) (mid cls : Byte) : Event :=
  { code := .frame, data := (len ++ mid ++ cls : BitVec (16 + 8 + 8)) }

/-- `EV_CKA_FAIL`, data `{0, ckA, received byte}` (R71). -/
def ckaFailEvent (ckA b : Byte) : Event :=
  { code := .ckaFail, data := (0x0000#16 ++ ckA ++ b : BitVec (16 + 8 + 8)) }

/-- `EV_CKB_FAIL`, data `{0, ckB, received byte}` (R71). -/
def ckbFailEvent (ckB b : Byte) : Event :=
  { code := .ckbFail, data := (0x0000#16 ++ ckB ++ b : BitVec (16 + 8 + 8)) }

/-- `EV_FIELD`, data the 32-bit result word (R71). -/
def fieldEvent (v : Word) : Event := { code := .field, data := v }

/-- `EV_STATUS`, data the STATUS register (R71). -/
def statusEvent (v : Word) : Event := { code := .status, data := v }

/-- `EV_CMD_ERR`, data the command word (R71). -/
def cmdErrEvent (w : Word) : Event := { code := .cmdErr, data := w }

/-- `EV_FIELD_OOB`, data the command word (R71). -/
def fieldOobEvent (w : Word) : Event := { code := .fieldOob, data := w }

/-- `emit(code, data)` (R11): appends one event to the log. -/
def State.emit (e : Event) (s : State) : State := { s with log := s.log ++ [e] }

/-- A diagnostic event, emitted only when `DIAG_EVENTS` (R7, R201). -/
def State.emitDiag (e : Event) (s : State) : State :=
  if s.cfg.diagEvents then s.emit e else s

/-! ## Conditions (60_exceptions.md R200 to R209)

The FSR has no trap: a condition is reported by its event, marks the model's fault set, and the machine goes on (R203, R205, R209; log 10). -/

/-- The fault set with one kind added (R206). -/
def FaultSet.add (f : FaultSet) : FaultKind → FaultSet
  | .cmdErr => { f with cmdErr := true }
  | .fieldOob => { f with fieldOob := true }

/-- Whether a kind is in the fault set. -/
def FaultSet.has (f : FaultSet) : FaultKind → Bool
  | .cmdErr => f.cmdErr
  | .fieldOob => f.fieldOob

/-- `raise Fault(kind)` (R11, R206). -/
def State.raiseFault (k : FaultKind) (s : State) : State := { s with faults := s.faults.add k }

/-- The one way a condition with a fault is reported: its event, and its mark (R200, R205). -/
def State.report (e : Event) (k : FaultKind) (s : State) : State := (s.emit e).raiseFault k

/-- `emit(EV_CMD_ERR, w) ; raise Fault(CMD_ERR)` (R140, R160, R163). -/
def State.commandError (w : Word) (s : State) : State := s.report (cmdErrEvent w) .cmdErr

/-- `emit(EV_FIELD_OOB, w) ; raise Fault(FIELD_OOB)` (R140, R149). -/
def State.fieldOutOfBounds (w : Word) (s : State) : State := s.report (fieldOobEvent w) .fieldOob

/-! ## Power-on reset (70_reset_and_hazards.md R240) -/

/-- `Rst`: `st` and `hold` reset, the data registers and the buffer hold no value (log 1, log 4).
It emits nothing and leaves the event log, the fault set, the ports and the build parameter alone. -/
def State.powerOnReset (s : State) : State :=
  { s with
    st := .waitSync1
    hold := false
    cls := 0#8
    mid := 0#8
    len := 0#16
    cnt := 0#16
    ckA := 0#8
    ckB := 0#8
    buf := []
    written := Written.none }

end Sys2Proof.Machine
end

