-- ==== Sys2Proof/Machine/Flags.lean ====
section
/-! DEFINITION. The checksum function and the accumulator update (40_frame_assembler.md R101, R102), the acceptance flag of `rx` (R100), and the STATUS view (10_state.md R29). -/

namespace Sys2Proof.Machine

/-- One byte folded into a pair of sums; `b` uses the `a` just computed (R101). -/
def ckNext (ab : Byte × Byte) (x : Byte) : Byte × Byte :=
  (ab.1 + x, ab.2 + (ab.1 + x))

/-- `CK([s0, s1, ..., sm])` (R101), on a non-empty sequence given by its first byte and the rest. -/
def ck (s0 : Byte) (rest : List Byte) : Byte × Byte :=
  rest.foldl ckNext (s0, s0)

/-- `CKUPD(b)` (R102): reads and writes both accumulators. -/
def State.ckUpd (b : Byte) (s : State) : State :=
  let s := s.noteRead .ckA
  let s := s.setCkA (s.ckA + b)
  let s := s.noteRead .ckB
  s.setCkB (s.ckB + s.ckA)

/-- The bit of `hold` (R22). -/
def holdBit (h : Bool) : BitVec 1 := if h then 1#1 else 0#1

/-- The STATUS register, `{27'b0, hold, st[3:0]}` (R29, R162). -/
def State.statusWord (s : State) : Word :=
  (0#27 ++ holdBit s.hold ++ s.st.code : BitVec (27 + 1 + 4))

end Sys2Proof.Machine
end

