-- ==== Sys2Proof/Machine/Control.lean ====
section
/-! DEFINITION. The control commands other than `FREAD`: `ACK`, `CANCEL`, `STATUS` and every illegal word (42_control.md R160 to R163). -/

namespace Sys2Proof.Machine

/-- `ACK` (R160): the hand-off of a held frame ends; with no held frame it is a command error. -/
def execAck (s : State) : Host.Outcome State Fault Refusal :=
  .next (if s.hold then s.setHold false else s.commandError 0x10000000#32)

/-- `CANCEL` (R161): legal in every state; the data registers and the buffer keep their values. -/
def execCancel (s : State) : Host.Outcome State Fault Refusal :=
  .next ((s.setSt .waitSync1).setHold false)

/-- `STATUS` (R162). -/
def execStatus (s : State) : Host.Outcome State Fault Refusal :=
  .next (s.emit (statusEvent s.statusWord))

/-- `ILLEGAL` (R163): no state change. -/
def execIllegal (w : Word) (s : State) : Host.Outcome State Fault Refusal :=
  .next (s.commandError w)

end Sys2Proof.Machine
end

