-- ==== Sys2Proof/Machine/Operands.lean ====
section
/-! DEFINITION. The operand of `FREAD`: a little-endian field of 1, 2 or 4 payload bytes, zero- or sign-extended to 32 bits (20_memory.md R42, 41_field_decoder.md R140). -/

namespace Sys2Proof.Machine

/-- `MemRead(off, n)`: byte `off` is the least significant (R42, R44). -/
def State.memRead (s : State) (off : Nat) : Nat → Except Fault Word
  | 0 => .ok 0#32
  | n + 1 =>
    match s.readByte off with
    | .error f => .error f
    | .ok v =>
      match s.memRead (off + 1) n with
      | .error f => .error f
      | .ok rest => .ok (v.setWidth 32 ||| (rest <<< 8))

/-- The low `8n` bits of `raw`, zero- or sign-extended to 32 bits (R140). -/
def extendField (signed : Bool) (n : Nat) (raw : Word) : Word :=
  if signed then (raw.setWidth (8 * n)).signExtend 32 else (raw.setWidth (8 * n)).setWidth 32

/-- A field of `n` bytes at `off` lies outside the payload: `off + n > len`, computed without wrap (R149). -/
def fieldOutside (off : Half) (n : Nat) (len : Half) : Bool :=
  decide (len.toNat < off.toNat + n)

/-- The integer a field result means (00_scope.md R12): its unsigned value, or its two's-complement value. -/
def fieldValue (signed : Bool) (v : Word) : Int :=
  if signed then v.toInt else (v.toNat : Int)

/-- `FREAD(off, n, signed)` carried by the command word `w` (R140).
The `hold` check comes first, then the bounds check; each step emits exactly one event. -/
def State.fread (w : Word) (off : Half) (n : Nat) (signed : Bool) (s : State) :
    Host.Outcome State Fault Refusal :=
  if s.hold then
    let s := s.noteRead .len
    if fieldOutside off n s.len then .next (s.fieldOutOfBounds w)
    else
      match s.memRead off.toNat n with
      | .error f => .fault f
      | .ok raw => .next (s.emit (fieldEvent (extendField signed n raw)))
  else .next (s.commandError w)

end Sys2Proof.Machine
end

