-- ==== Sys2Proof/Machine/FieldDecoder.lean ====
section
/-! DEFINITION. The six forms of `FREAD` (41_field_decoder.md R142 to R147), each the general rule R140 at one width and signedness. -/

namespace Sys2Proof.Machine

/-- `FREAD.U1` (R142). -/
def execFreadU1 (off : Half) (s : State) : Host.Outcome State Fault Refusal :=
  s.fread (freadWord 0#1 0b00#2 off) off 1 false

/-- `FREAD.I1` (R143). -/
def execFreadI1 (off : Half) (s : State) : Host.Outcome State Fault Refusal :=
  s.fread (freadWord 1#1 0b00#2 off) off 1 true

/-- `FREAD.U2` (R144). -/
def execFreadU2 (off : Half) (s : State) : Host.Outcome State Fault Refusal :=
  s.fread (freadWord 0#1 0b01#2 off) off 2 false

/-- `FREAD.I2` (R145). -/
def execFreadI2 (off : Half) (s : State) : Host.Outcome State Fault Refusal :=
  s.fread (freadWord 1#1 0b01#2 off) off 2 true

/-- `FREAD.U4` (R146). -/
def execFreadU4 (off : Half) (s : State) : Host.Outcome State Fault Refusal :=
  s.fread (freadWord 0#1 0b10#2 off) off 4 false

/-- `FREAD.I4` (R147). -/
def execFreadI4 (off : Half) (s : State) : Host.Outcome State Fault Refusal :=
  s.fread (freadWord 1#1 0b10#2 off) off 4 true

end Sys2Proof.Machine
end

