-- ==== Sys2Proof/Machine/FrameAssembler.lean ====
section
/-! DEFINITION. The nine `Rx` operations of the frame assembler, one a state (40_frame_assembler.md R103 to R111).
Whether an `Rx` is performed at all (R100) is decided where a byte is accepted, in Machine/Ports.lean (log 17). -/

namespace Sys2Proof.Machine

/-- `SYNC1` (00_scope.md R5). -/
def sync1 : Byte := 0xB5#8

/-- `SYNC2` (00_scope.md R5). -/
def sync2 : Byte := 0x62#8

/-- R103. -/
def execRxWaitSync1 (b : Byte) (s : State) : Host.Outcome State Fault Refusal :=
  .next (s.setSt (if b = sync1 then .waitSync2 else .waitSync1))

/-- R104, with the failing byte re-scanned as a first sync byte (90_conflicts.md C1; log 14). -/
def execRxWaitSync2 (b : Byte) (s : State) : Host.Outcome State Fault Refusal :=
  .next (s.setSt (if b = sync2 then .cls else if b = sync1 then .waitSync2 else .waitSync1))

/-- R105: both accumulators are seeded with the class byte. -/
def execRxClass (b : Byte) (s : State) : Host.Outcome State Fault Refusal :=
  let s := s.setCls b
  let s := s.setCkA b
  let s := s.setCkB b
  .next (s.setSt .id)

/-- R106. -/
def execRxId (b : Byte) (s : State) : Host.Outcome State Fault Refusal :=
  let s := s.setMid b
  let s := s.ckUpd b
  .next (s.setSt .lenLo)

/-- R107: bits 15..8 of the length are cleared. -/
def execRxLenLo (b : Byte) (s : State) : Host.Outcome State Fault Refusal :=
  let s := s.setLen (b.setWidth 16)
  let s := s.ckUpd b
  .next (s.setSt .lenHi)

/-- The state after the length is known: a length of 0 is immediately satisfied (R108). -/
def afterLength (len : Half) : St := if len = 0#16 then .ckA else .payload

/-- The state after a payload byte, `cnt` counting it (R109). -/
def afterPayload (cnt len : Half) : St := if cnt = len then .ckA else .payload

/-- R108: `len` is tested after it is written. -/
def execRxLenHi (b : Byte) (s : State) : Host.Outcome State Fault Refusal :=
  let s := s.noteRead .len
  let s := s.setLen (b ++ s.len.extractLsb' 0 8 : BitVec (8 + 8))
  let s := s.ckUpd b
  let s := s.setCnt 0#16
  .next (s.setSt (afterLength s.len))

/-- R109: `cnt` is tested after it is incremented. -/
def execRxPayload (b : Byte) (s : State) : Host.Outcome State Fault Refusal :=
  let s := s.noteRead .cnt
  match s.memWrite s.cnt.toNat b with
  | .error f => .fault f
  | .ok s =>
    let s := s.ckUpd b
    let s := s.setCnt (s.cnt + 1#16)
    let s := s.noteRead .len
    .next (s.setSt (afterPayload s.cnt s.len))

/-- R110: on a mismatch the byte is consumed and is not re-examined (92 D11; log 14). -/
def execRxCkA (b : Byte) (s : State) : Host.Outcome State Fault Refusal :=
  let s := s.noteRead .ckA
  .next (if b = s.ckA then s.setSt .ckB
    else (s.setSt .waitSync1).emitDiag (ckaFailEvent s.ckA b))

/-- R111: either outcome resets the state machine; a match delivers the frame. -/
def execRxCkB (b : Byte) (s : State) : Host.Outcome State Fault Refusal :=
  let s := s.setSt .waitSync1
  let s := s.noteRead .ckB
  .next (if b = s.ckB then
      let s := ((s.noteRead .len).noteRead .mid).noteRead .cls
      (s.setHold true).emit (frameEvent s.len s.mid s.cls)
    else s.emitDiag (ckbFailEvent s.ckB b))

end Sys2Proof.Machine
end

