-- ==== Sys2Proof/Machine/Dispatch.lean ====
section
/-! DEFINITION. One arm per constructor of `Instr`. -/

namespace Sys2Proof.Machine

/-- The effect of one decoded operation. -/
def exec (i : Instr) (s : State) : Host.Outcome State Fault Refusal :=
  match i with
  | .rxWaitSync1 b => Sys2Proof.Machine.execRxWaitSync1 b s
  | .rxWaitSync2 b => Sys2Proof.Machine.execRxWaitSync2 b s
  | .rxClass b => Sys2Proof.Machine.execRxClass b s
  | .rxId b => Sys2Proof.Machine.execRxId b s
  | .rxLenLo b => Sys2Proof.Machine.execRxLenLo b s
  | .rxLenHi b => Sys2Proof.Machine.execRxLenHi b s
  | .rxPayload b => Sys2Proof.Machine.execRxPayload b s
  | .rxCkA b => Sys2Proof.Machine.execRxCkA b s
  | .rxCkB b => Sys2Proof.Machine.execRxCkB b s
  | .ack => Sys2Proof.Machine.execAck s
  | .cancel => Sys2Proof.Machine.execCancel s
  | .freadU1 off => Sys2Proof.Machine.execFreadU1 off s
  | .freadI1 off => Sys2Proof.Machine.execFreadI1 off s
  | .freadU2 off => Sys2Proof.Machine.execFreadU2 off s
  | .freadI2 off => Sys2Proof.Machine.execFreadI2 off s
  | .freadU4 off => Sys2Proof.Machine.execFreadU4 off s
  | .freadI4 off => Sys2Proof.Machine.execFreadI4 off s
  | .status => Sys2Proof.Machine.execStatus s
  | .illegal w => Sys2Proof.Machine.execIllegal w s

end Sys2Proof.Machine
end

