-- ==== Sys2Proof/Machine/Ports.lean ====
section
/-! DEFINITION. The input ports: what an operation is (00_scope.md R9), when it is enabled (40_frame_assembler.md R100, 42_control.md R164), which offered transfer a step takes (20_memory.md R48, 70_reset_and_hazards.md R241), and what the host does to the ports between steps. -/

namespace Sys2Proof.Machine

/-- One operation of the FSR (R9). -/
inductive Operation where
  /-- `Rst`: power-on reset. -/
  | rst
  /-- `Rx(b)`: accept one byte. -/
  | rx (b : Byte)
  /-- `Ctl(w)`: accept one command word. -/
  | ctl (w : Word)
deriving DecidableEq, Repr

/-- `Rx(b)` is not enabled while `hold = 1` (R100); a command never waits (R164); `Rst` is one step like any other (R241). -/
def Operation.enabled (op : Operation) (s : State) : Bool :=
  match op with
  | .rst => true
  | .rx _ => !s.hold
  | .ctl _ => true

/-- The byte on `rx` is accepted. -/
def State.takeRx (b : Byte) (rest : List Byte) (s : State) : Operation × State :=
  (.rx b, { s with rx := rest })

/-- The word on `ctl`, if one is offered, is accepted. -/
def State.takeCtl (s : State) : Option (Operation × State) :=
  match s.ctl with
  | [] => none
  | w :: ws => some (.ctl w, { s with ctl := ws })

/-- One choice between the two ports has been made. -/
def State.countChoice (s : State) : State := { s with arb := s.arb + 1 }

/-- The operation the next step performs, with the state whose ports no longer offer it.
While `rst` is asserted neither port accepts (R241); while `hold = 1` the byte on `rx` stays there (R100);
when both ports offer, the free value `Config.rxFirst` chooses (R48; log 6). -/
def State.take (s : State) : Option (Operation × State) :=
  if s.rst then some (.rst, { s with rst := false })
  else if s.hold then s.takeCtl
  else
    match s.rx, s.ctl with
    | [], _ => s.takeCtl
    | b :: bs, [] => some (s.takeRx b bs)
    | b :: bs, w :: ws =>
      if Config.rxFirst s.arb then some (s.countChoice.takeRx b bs)
      else some (.ctl w, { s.countChoice with ctl := ws })

/-- The byte source offers bytes, after those already offered (R8, R48). -/
def State.offerRx (bs : List Byte) (s : State) : State := { s with rx := s.rx ++ bs }

/-- The consumer offers command words, after those already offered (R8, R48). -/
def State.offerCtl (ws : List Word) (s : State) : State := { s with ctl := s.ctl ++ ws }

/-- The `rst` input is asserted (R9, R241). -/
def State.assertRst (s : State) : State := { s with rst := true }

/-- What the host does to the ports between two steps: bytes and words it offers, and whether it asserts `rst` (R8, R9; log 5). -/
structure Offer where
  rx : List Byte
  ctl : List Word
  rst : Bool
deriving DecidableEq, Repr

/-- The ports after the host's offer; an asserted `rst` stays asserted until its step. -/
def State.offer (o : Offer) (s : State) : State :=
  { s with rx := s.rx ++ o.rx, ctl := s.ctl ++ o.ctl, rst := s.rst || o.rst }

/-- `ready` of `rx`: `hold = 0` and not in reset (R100, 92 D2). -/
def State.rxReady (s : State) : Bool := !s.hold && !s.rst

/-- `ready` of `ctl`: not in reset (R164, 92 D3). -/
def State.ctlReady (s : State) : Bool := !s.rst

/-- The step from this state accepts the byte first at `rx`. -/
def State.takesRx (s : State) : Bool :=
  match s.take with
  | some (.rx _, _) => true
  | some (.ctl _, _) => false
  | some (.rst, _) => false
  | none => false

/-- The step from this state accepts the word first at `ctl`. -/
def State.takesCtl (s : State) : Bool :=
  match s.take with
  | some (.ctl _, _) => true
  | some (.rx _, _) => false
  | some (.rst, _) => false
  | none => false

/-- The ports offer exactly one byte, to be decoded in state `st`; `rx` is ready (R64, R100). -/
def State.placeRx (st : St) (b : Byte) (s : State) : State :=
  { s with st := st, hold := false, rst := false, ctl := [], rx := b :: s.rx }

/-- The next transfer taken is the command word `w` (R164). -/
def State.placeCtl (w : Word) (s : State) : State :=
  { s with rst := false, rx := [], ctl := w :: s.ctl }

end Sys2Proof.Machine
end

