-- ==== Sys2Proof/Machine/Perform.lean ====
section
/-! DEFINITION. The effect of one operation: the byte is decoded against the current state and the word on its own, and the instruction read is executed (30_encoding.md R64, R69). -/

namespace Sys2Proof.Machine

/-- Perform one operation (00_scope.md R9). Whether it is enabled is `Operation.enabled`. -/
def perform (op : Operation) (s : State) : Host.Outcome State Fault Refusal :=
  match op with
  | .rst => .next s.powerOnReset
  | .rx b => exec (decodeRx s.st b) s
  | .ctl w => exec (decodeCtl w) s

/-- One step: the transfer taken is performed; with nothing to take the FSR stays parked with all state kept (R116, R216; log 7). -/
def stepTaken (s : State) : Host.Outcome State Fault Refusal :=
  match s.take with
  | some (op, s) => perform op s
  | none => .next s

/-- The state with the transfer of `nbits` bits `w`, numbered as the opcode table numbers them, placed to be taken next (log 9).
A key whose state code is reserved names no state (R69) and places nothing. -/
def State.placeTableWord (s : State) (nbits w : Nat) : State :=
  if nbits ≤ 16 then
    match St.ofCode (BitVec.ofNat 4 (w / 256)) with
    | some st => if w < 2 ^ 12 then s.placeRx st (BitVec.ofNat 8 w) else s
    | none => s
  else s.placeCtl (BitVec.ofNat 32 w)

end Sys2Proof.Machine
end

