-- ==== Sys2Proof/Machine/Step.lean ====
section
/-! DEFINITION. One step of the machine, and the placing of one instruction where the step takes it. -/

namespace Sys2Proof.Machine

/-- One step of the FSR (00_scope.md R9). -/
def step (s : State) : Host.Outcome State Fault Refusal := stepTaken s

/-- `s` with the instruction `w` placed where `step` takes its next one. -/
def State.withFetchWord (s : State) (nbits w : Nat) : State := s.placeTableWord nbits w

end Sys2Proof.Machine
end

