-- ==== Sys2Proof/Machine/Consumer.lean ====
section
/-! DEFINITION. The host side the spec states rules for, outside the FSR and called by no step: the mapping of a FieldSpec to a command (30_encoding.md R72), the operation language (R73, R74), the wire frame (R61), and the consumer's decode contract (41_field_decoder.md R151). -/

namespace Sys2Proof.Machine

/-- The three field widths (00_scope.md R5). -/
inductive Width where
  | one | two | four
deriving DecidableEq, Repr

/-- A width in bytes. -/
def Width.bytes : Width → Nat
  | .one => 1
  | .two => 2
  | .four => 4

/-- The width code `wc` of a command word (R67). -/
def Width.code : Width → BitVec 2
  | .one => 0b00#2
  | .two => 0b01#2
  | .four => 0b10#2

/-- The `sgn` bit of a command word (R67). -/
def signBit (signed : Bool) : BitVec 1 := if signed then 1#1 else 0#1

/-- A FieldSpec of the consumer's registry: `repeated` is arity N, the repeated-byte marker (R72). -/
structure FieldSpec where
  offset : BitVec 32
  width : Width
  signed : Bool
  repeated : Bool
  name : String
deriving DecidableEq, Repr

/-- The width the field is read with: a repeated-byte field reads exactly 1 byte (R72, 92 D20).
DEDUCED (log 19): for arity N with a declared width of 2 or 4 the spec's files differ, and the model follows R72's pseudocode, which reads 1 byte; 93 I14 would refuse such a field and 91 N10 assumes no decoding of it. -/
def FieldSpec.readWidth (f : FieldSpec) : Width := if f.repeated then .one else f.width

/-- The one `FREAD` word of a FieldSpec; a spec with an offset above 0xFFFF has none and is a registry error (R72). -/
def FieldSpec.word (f : FieldSpec) : Option Word :=
  if f.offset.toNat ≤ 0xFFFF then
    some (freadWord (signBit f.signed) f.readWidth.code (f.offset.extractLsb' 0 16))
  else none

/-- The covered bytes of a frame after its class byte: id, length low, length high, payload (R61). -/
def coveredTail (mid : Byte) (payload : List Byte) : List Byte :=
  mid :: BitVec.ofNat 8 payload.length :: BitVec.ofNat 8 (payload.length / 256) :: payload

/-- The checksum pair of a frame (R61, R101). -/
def frameCk (cls mid : Byte) (payload : List Byte) : Byte × Byte := ck cls (coveredTail mid payload)

/-- The wire bytes of a frame with the given checksum bytes (R61). -/
def wireBytes (cls mid : Byte) (payload : List Byte) (a b : Byte) : List Byte :=
  sync1 :: sync2 :: cls :: (coveredTail mid payload ++ [a, b])

/-- The wire bytes of a valid frame (R61, R74). -/
def frameBytes (cls mid : Byte) (payload : List Byte) : List Byte :=
  wireBytes cls mid payload (frameCk cls mid payload).1 (frameCk cls mid payload).2

/-- One line of the operation language (R73, R74). -/
inductive AsmLine where
  | rx (bs : List Byte)
  | ack
  | cancel
  | status
  /-- `fread.<T> off` and, with a repeat count, the repeated-byte form `fread.<T>[k] off`. -/
  | fread (width : Width) (signed : Bool) (repeats : Option Nat) (off : Nat)
  | ctl (w : Word)
  | rst
  | frame (cls mid : Byte) (payload : List Byte)
deriving DecidableEq, Repr

/-- The operations of a line; none where the assembler refuses it: an offset above 0xFFFF (R73), `[k]` on a width other than 1 (R74), or a payload no 16-bit length can count (log 18). -/
def AsmLine.expand : AsmLine → Option (List Operation)
  | .rx bs => some (bs.map .rx)
  | .ack => some [.ctl 0x10000000#32]
  | .cancel => some [.ctl 0x20000000#32]
  | .status => some [.ctl 0x40000000#32]
  | .fread width signed repeats off =>
    if off ≤ 0xFFFF && (repeats.isNone || width == .one) then
      some [.ctl (freadWord (signBit signed) width.code (BitVec.ofNat 16 off))]
    else none
  | .ctl w => some [.ctl w]
  | .rst => some [.rst]
  | .frame cls mid payload =>
    if payload.length ≤ 0xFFFF then some ((frameBytes cls mid payload).map .rx) else none

/-- The consumer's registry: field lists by (class, id). Host configuration (00_scope.md R4). -/
abbrev Registry := List ((Byte × Byte) × List FieldSpec)

/-- One record the consumer emits (00_scope.md, glossary). -/
inductive Record where
  | decoded (classId msgId : Byte) (fields : List (String × Int))
  | raw (classId msgId : Byte) (payload : List Byte)
deriving DecidableEq, Repr

/-- The raw readout of a held payload: `fread.U1 k` for `k = 0 .. len-1` (41_field_decoder.md R148). -/
def readoutWords (len : Half) : List Word :=
  (List.range len.toNat).map fun k => freadWord 0#1 0b00#2 (BitVec.ofNat 16 k)

/-- The reads the consumer issues after an `EV_FRAME`, before `ACK` (R151, steps 1 to 3); none on a registry error (R72). -/
def consumerReads (reg : Registry) (cls mid : Byte) (len : Half) : Option (List Word) :=
  match reg.lookup (cls, mid) with
  | none => some (readoutWords len)
  | some specs => specs.mapM FieldSpec.word

/-- The record the consumer builds from the result words of its reads (R151, R12). -/
def consumerRecord (reg : Registry) (cls mid : Byte) (results : List Word) : Record :=
  match reg.lookup (cls, mid) with
  | none => .raw cls mid (results.map (·.setWidth 8))
  | some specs => .decoded cls mid (List.zipWith (fun f v => (f.name, fieldValue f.signed v)) specs results)

/-- The consumer's whole answer to an `EV_FRAME`: its reads, then `ACK` (R151, step 4). -/
def consumerCommands (reg : Registry) (cls mid : Byte) (len : Half) : Option (List Word) :=
  (consumerReads reg cls mid len).map (· ++ [0x10000000#32])

end Sys2Proof.Machine
end

