-- ==== Sys2Proof/Safety.lean ====
section
/-! DEFINITION. What claims speak of: runs of operations in any order the ports allow (20_memory.md R48), the invariant of the FSR, the history of covered bytes (40_frame_assembler.md R113), weak fairness (70_reset_and_hazards.md R249), and the end of a run (60_exceptions.md R206, 70_reset_and_hazards.md R250). -/

namespace Sys2Proof.Machine

/-- A run: each operation is enabled where it is performed (R9, R100, R164). Every interleaving of the ports is a list of operations (R48). -/
inductive Run : State → List Operation → State → Prop where
  | nil (s : State) : Run s [] s
  | cons {s t u : State} {op : Operation} {ops : List Operation} :
      op.enabled s = true → perform op s = .next t → Run t ops u → Run s (op :: ops) u

/-- The bytes a list of operations takes from `rx`, in order. -/
def rxBytes (ops : List Operation) : List Byte :=
  ops.filterMap fun
    | .rx b => some b
    | .ctl _ => none
    | .rst => none

/-- A `ctl` command other than `CANCEL` and `ACK`, or an `Rx` (the operations R114 lets interleave). -/
def Operation.quiet : Operation → Bool
  | .rst => false
  | .rx _ => true
  | .ctl w => decodeCtl w != .ack && decodeCtl w != .cancel

/-- The events an `Rx` step can emit (R70). -/
def EvCode.fromRx : EvCode → Bool
  | .frame => true
  | .ckaFail => true
  | .ckbFail => true
  | .field => false
  | .status => false
  | .cmdErr => false
  | .fieldOob => false

/-- The events of the log that `Rx` steps emitted. -/
def State.rxEvents (s : State) : List Event := s.log.filter (·.code.fromRx)

/-- The `EV_FRAME` events of the log. -/
def State.frameEvents (s : State) : List Event := s.log.filter (·.code == .frame)

/-- The place of a state in the source's order (10_state.md R21). -/
def rank (st : St) : Nat := st.code.toNat

/-- The invariant of the FSR: what a register or byte that is read later must already hold (10_state.md R32, R26, 20_memory.md R40). -/
structure Inv (s : State) : Prop where
  bufWf : Memory.wf s.buf
  classWritten : 3 ≤ rank s.st → s.written.cls = true ∧ s.written.ckA = true ∧ s.written.ckB = true
  midWritten : 4 ≤ rank s.st → s.written.mid = true
  lenWritten : 5 ≤ rank s.st → s.written.len = true
  cntWritten : 6 ≤ rank s.st → s.written.cnt = true
  cntBelowLen : s.st = .payload → s.cnt.toNat < s.len.toNat
  payloadSoFar : s.st = .payload → ∀ k, k < s.cnt.toNat → (s.buf.read k).isSome
  payloadWhole : 7 ≤ rank s.st ∨ s.hold = true → ∀ k, k < s.len.toNat → (s.buf.read k).isSome
  heldAtRest : s.hold = true →
    s.st = .waitSync1 ∧ s.written.cls = true ∧ s.written.mid = true ∧ s.written.len = true

/-- The bytes of a list stand in the buffer from index 0. -/
def holdsPayload (m : Memory) (p : List Byte) : Prop :=
  ∀ k, (h : k < p.length) → Memory.read m k = some p[k]

/-- History: the covered bytes accepted since the last `CLASS` step (R113), from the history `h` before the operation. -/
def coveredAfter (op : Operation) (s : State) (h : List Byte) : List Byte :=
  match op with
  | .rx b =>
    if s.st = .cls then [b]
    else if s.st = .id ∨ s.st = .lenLo ∨ s.st = .lenHi ∨ s.st = .payload then h ++ [b]
    else h
  | .ctl _ => h
  | .rst => h

/-- R113 over a history `h`: from `ID` to `CK_B` the accumulators are the checksum of `h`, and `h` is the covered bytes of the frame so far. -/
def AccInv (s : State) (h : List Byte) : Prop :=
  (3 ≤ rank s.st → ∃ rest, h = s.cls :: rest ∧ (s.ckA, s.ckB) = ck s.cls rest) ∧
  (s.st = .id → h = [s.cls]) ∧
  (s.st = .lenLo → h = [s.cls, s.mid]) ∧
  (s.st = .lenHi → h = [s.cls, s.mid, s.len.setWidth 8] ∧ s.len.toNat < 256) ∧
  (s.st = .payload → ∃ p, h = s.cls :: s.mid :: s.len.setWidth 8 :: s.len.extractLsb' 8 8 :: p ∧
    p.length = s.cnt.toNat ∧ s.cnt.toNat < s.len.toNat ∧ holdsPayload s.buf p) ∧
  (7 ≤ rank s.st → ∃ p, h = s.cls :: coveredTail s.mid p ∧
    p.length = s.len.toNat ∧ holdsPayload s.buf p)

/-- Fault set empty and no unwritten register read: the model vouches for the run (R206, R32). -/
def State.vouched (s : State) : Bool := s.faults == FaultSet.empty && !s.unwrittenRead

/-- A run is complete: every offered byte and command accepted, no held frame, fault set empty (R250). -/
def State.complete (s : State) : Bool :=
  s.rx.isEmpty && s.ctl.isEmpty && !s.hold && s.faults == FaultSet.empty

/-! ## Weak fairness (70_reset_and_hazards.md R249, 92 D18, 93 I11)

An assumption that only claims about the end of a run need; `step` does not build it in (log 16). -/

/-- An unending run of `step`: before step `n` the host makes the offer `o n`. -/
def Trace (σ : Nat → State) (o : Nat → Offer) : Prop :=
  ∀ n, step ((σ n).offer (o n)) = .next (σ (n + 1))

/-- R249, as the weak fairness of 92 D18: a transfer offered on a port that stays ready is eventually taken.
The transfer offered on a port is the first of its queue. -/
structure WeaklyFair (σ : Nat → State) (o : Nat → Offer) : Prop where
  rx : ∀ n, (∀ m, n ≤ m → ((σ m).offer (o m)).rxReady = true ∧ ((σ m).offer (o m)).rx ≠ []) →
    ∃ m, n ≤ m ∧ ((σ m).offer (o m)).takesRx = true
  ctl : ∀ n, (∀ m, n ≤ m → ((σ m).offer (o m)).ctlReady = true ∧ ((σ m).offer (o m)).ctl ≠ []) →
    ∃ m, n ≤ m ∧ ((σ m).offer (o m)).takesCtl = true

/-- The bytes offered before the steps `n`, `n+1`, ..., `n+k-1`, in order. -/
def offeredRx (o : Nat → Offer) (n k : Nat) : List Byte := (List.range k).flatMap fun j => (o (n + j)).rx

/-- The words offered before the steps `n`, `n+1`, ..., `n+k-1`, in order. -/
def offeredCtl (o : Nat → Offer) (n k : Nat) : List Word := (List.range k).flatMap fun j => (o (n + j)).ctl

/-! ## Registers read and written -/

/-- The data registers an instruction reads in a state, by the column "read by" of 10_state.md R20. -/
def regsRead (i : Instr) (s : State) : List Reg :=
  match i with
  | .rxWaitSync1 _ => []
  | .rxWaitSync2 _ => []
  | .rxClass _ => []
  | .rxId _ => [.ckA, .ckB]
  | .rxLenLo _ => [.ckA, .ckB]
  | .rxLenHi _ => [.len, .ckA, .ckB]
  | .rxPayload _ => [.cnt, .len, .ckA, .ckB]
  | .rxCkA _ => [.ckA]
  | .rxCkB b => if b = s.ckB then [.ckB, .len, .mid, .cls] else [.ckB]
  | .ack => []
  | .cancel => []
  | .freadU1 _ => if s.hold then [.len] else []
  | .freadI1 _ => if s.hold then [.len] else []
  | .freadU2 _ => if s.hold then [.len] else []
  | .freadI2 _ => if s.hold then [.len] else []
  | .freadU4 _ => if s.hold then [.len] else []
  | .freadI4 _ => if s.hold then [.len] else []
  | .status => []
  | .illegal _ => []

/-- The data registers an instruction writes, by the column "written by" of 10_state.md R20. -/
def regsWritten : Instr → List Reg
  | .rxWaitSync1 _ => []
  | .rxWaitSync2 _ => []
  | .rxClass _ => [.cls, .ckA, .ckB]
  | .rxId _ => [.mid, .ckA, .ckB]
  | .rxLenLo _ => [.len, .ckA, .ckB]
  | .rxLenHi _ => [.len, .ckA, .ckB, .cnt]
  | .rxPayload _ => [.ckA, .ckB, .cnt]
  | .rxCkA _ => []
  | .rxCkB _ => []
  | .ack => []
  | .cancel => []
  | .freadU1 _ => []
  | .freadI1 _ => []
  | .freadU2 _ => []
  | .freadI2 _ => []
  | .freadU4 _ => []
  | .freadI4 _ => []
  | .status => []
  | .illegal _ => []

end Sys2Proof.Machine
end

