-- ==== Sys2Proof/WellFormed.lean ====
section
/-! DEFINITION. Which instruction terms stand for something the FSR can decode: `illegal w` only for a word that is no legal command (30_encoding.md R68, R69; log 12). -/

namespace Sys2Proof

/-- R68: the only legal words are the three fixed ones, and the `FREAD` words with bits 27..19 clear and `wc` not 0b11. -/
def legalCommand (w : Word) : Bool :=
  w == 0x10000000#32 || w == 0x20000000#32 || w == 0x40000000#32
    || (w.extractLsb' 28 4 == 0x3#4 && w.extractLsb' 19 9 == 0#9 && w.extractLsb' 16 2 != 0b11#2)

/-- Every term but `illegal w` is well formed for every operand value; `illegal w` is, when `w` is no legal command. -/
def Instr.wf : Instr → Bool
  | .illegal w => !legalCommand w
  | .rxWaitSync1 _ => true
  | .rxWaitSync2 _ => true
  | .rxClass _ => true
  | .rxId _ => true
  | .rxLenLo _ => true
  | .rxLenHi _ => true
  | .rxPayload _ => true
  | .rxCkA _ => true
  | .rxCkB _ => true
  | .ack => true
  | .cancel => true
  | .freadU1 _ => true
  | .freadI1 _ => true
  | .freadU2 _ => true
  | .freadI2 _ => true
  | .freadU4 _ => true
  | .freadI4 _ => true
  | .status => true

end Sys2Proof
end

