-- ==== Sys2Proof/Certificates/Slice0/Obligations.lean ====
section
/-! DEFINITION. The statements about the FSR that the provers are asked for, and the few definitions only they use.

A next state is written as the old one with the fields the rule writes; every other field is the frame.
The two fields `written` and `unwrittenRead` are the model's bookkeeping of 10_state.md R32 (log 1, log 2), which no instruction rule mentions: they are left open there, and `BookkeepingFollowsTheRegisterTable` says what they do. -/

open Sys2Proof Sys2Proof.Machine

namespace Sys2Proof.Claims

/-- The RX key `{code, b}` and no other key decodes to the instruction with operand `b` (30_encoding.md R64). -/
def decodesFrom (code : BitVec 4) (i : Byte → Instr) : Prop :=
  ∀ (key : RxKey) (b : Byte), decode (.rx key) = .ok (i b) ↔ key = (code ++ b : BitVec (4 + 8))

/-- The word `{upper, off}` and no other word decodes to the `FREAD` form at offset `off` (R67). -/
def decodesFromUpper (upper : Half) (i : Half → Instr) : Prop :=
  ∀ (w : Word) (off : Half), decode (.ctl w) = .ok (i off) ↔ w = (upper ++ off : BitVec (16 + 16))

/-- `ckA` after `CKUPD(b)` (R102). -/
def nextA (s : State) (b : Byte) : Byte := BitVec.ofNat 8 ((s.ckA.toNat + b.toNat) % 256)

/-- `ckB` after `CKUPD(b)`, from the `ckA` just written (R102). -/
def nextB (s : State) (b : Byte) : Byte := BitVec.ofNat 8 ((s.ckB.toNat + (nextA s b).toNat) % 256)

/-- The six `FREAD` forms by width and signedness (R67). -/
def freadForm : Width → Bool → Half → Instr
  | .one, false => .freadU1
  | .one, true => .freadI1
  | .two, false => .freadU2
  | .two, true => .freadI2
  | .four, false => .freadU4
  | .four, true => .freadI4

/-- The command word of a form (R65, R67). -/
def formWord (width : Width) (signed : Bool) (off : Half) : Word :=
  (0x3#4 ++ 0#9 ++ signBit signed ++ width.code ++ off : BitVec (4 + 9 + 1 + 2 + 16))

/-- The little-endian number of a list of bytes (20_memory.md R42). -/
def leNat : List Byte → Nat
  | [] => 0
  | b :: bs => b.toNat + 256 * leNat bs

/-- The bytes of the list are the payload bytes from index `off` on. -/
def bytesAt (s : State) (off : Nat) (bs : List Byte) : Prop :=
  ∀ k, (h : k < bs.length) → s.buf.read (off + k) = some bs[k]

/-- The only change is one event more in the log (and R32's mark). -/
def emits (i : Instr) (s : State) (e : Event) : Prop :=
  ∃ t, exec i s = .next t ∧ t = { s with log := s.log ++ [e], unwrittenRead := t.unwrittenRead }

/-- The two errors of a `FREAD` of `n` bytes at `off` carried by `w`: no held frame, and out of bounds without wrap (R140, R149). -/
def freadErrors (i : Instr) (w : Word) (off : Half) (n : Nat) : Prop :=
  ∀ s : State,
    (s.hold = false → exec i s = .next
      { s with log := s.log ++ [⟨.cmdErr, w⟩], faults := { s.faults with cmdErr := true } }) ∧
    (s.hold = true → s.len.toNat < off.toNat + n → ∃ t, exec i s = .next t ∧
      t = { s with log := s.log ++ [⟨.fieldOob, w⟩], faults := { s.faults with fieldOob := true },
                   unwrittenRead := t.unwrittenRead })

/-- A consumer's misuse of the given kind: an illegal word, `ACK` or `FREAD` with no held frame; a `FREAD` outside the held payload (60_exceptions.md R204). -/
def misuse (k : FaultKind) (op : Operation) (s : State) : Prop :=
  ∃ w, op = .ctl w ∧
    match k with
    | .cmdErr => decodeCtl w = .illegal w ∨
        (s.hold = false ∧ (decodeCtl w = .ack ∨ ∃ width signed off, decodeCtl w = freadForm width signed off))
    | .fieldOob => s.hold = true ∧ ∃ width signed off,
        decodeCtl w = freadForm width signed off ∧ s.len.toNat < off.toNat + width.bytes

/-- What emits an event of each code, by the table of R70. -/
def emittedBy (c : EvCode) (op : Operation) (s : State) : Prop :=
  match c with
  | .frame => ∃ b, op = .rx b ∧ s.st = .ckB ∧ b = s.ckB
  | .ckaFail => ∃ b, op = .rx b ∧ s.st = .ckA ∧ b ≠ s.ckA ∧ s.cfg.diagEvents = true
  | .ckbFail => ∃ b, op = .rx b ∧ s.st = .ckB ∧ b ≠ s.ckB ∧ s.cfg.diagEvents = true
  | .field => s.hold = true ∧ ∃ w width signed off, op = .ctl w ∧
      decodeCtl w = freadForm width signed off ∧ off.toNat + width.bytes ≤ s.len.toNat
  | .status => ∃ w, op = .ctl w ∧ decodeCtl w = .status
  | .cmdErr => misuse .cmdErr op s
  | .fieldOob => misuse .fieldOob op s

/-- The log without the two diagnostic events (R7). -/
def undiagnosed (l : List Event) : List Event := l.filter fun e => e.code != .ckaFail && e.code != .ckbFail

/-- An outcome with its next state changed. -/
def mapNext (f : State → State) : Host.Outcome State Fault Refusal → Host.Outcome State Fault Refusal
  | .next s => .next (f s)
  | .fault r => .fault r
  | .refused r => .refused r

/-- A value fits a field: its range by width and signedness (41_field_decoder.md R152). -/
def fits (f : FieldSpec) (v : Int) : Prop :=
  if f.signed then -(2 : Int) ^ (8 * f.readWidth.bytes - 1) ≤ v ∧ v < 2 ^ (8 * f.readWidth.bytes - 1)
  else 0 ≤ v ∧ v < 2 ^ (8 * f.readWidth.bytes)

/-- The value is stored little-endian, in two's complement, at the field's offset in the payload (R152). -/
def storedAt (p : List Byte) (f : FieldSpec) (v : Int) : Prop :=
  ∀ k, k < f.readWidth.bytes → p[f.offset.toNat + k]? = some (BitVec.ofInt 8 (v / 256 ^ k))

end Sys2Proof.Claims

open Sys2Proof.Claims

/-! ## Reset -/

/-- R33: the state after `Rst` of every build. The values the model names for registers that hold no value (log 1) are not stated. -/
def Obligations.ResetValuesAsStated : Prop :=
  ∀ cfg : Config, (State.resetWith cfg).st = .waitSync1 ∧ (State.resetWith cfg).hold = false ∧
    (∀ r : Reg, (State.resetWith cfg).written.has r = false) ∧
    (∀ a, (State.resetWith cfg).buf.read a = none) ∧
    (State.resetWith cfg).statusWord = 0x00000000#32 ∧ State.reset = State.resetWith Config.default

/-- R240: what `Rst` writes, and that it touches neither the event log nor the fault set. -/
def Obligations.RstForgetsRegistersAndBuffer : Prop :=
  ∀ s : State, ∃ t, perform .rst s = .next t ∧ t.st = .waitSync1 ∧ t.hold = false ∧
    (∀ r : Reg, t.written.has r = false) ∧ (∀ a, t.buf.read a = none) ∧
    t = { s with st := t.st, hold := t.hold, cls := t.cls, mid := t.mid, len := t.len, cnt := t.cnt,
                 ckA := t.ckA, ckB := t.ckB, buf := t.buf, written := t.written }

/-- R241. That one asserted `rst` stands for one `Rst` step is the model's choice (log 5). -/
def Obligations.AssertedRstGoesBeforeThePorts : Prop :=
  ∀ s : State, s.rst = true → ∃ t, step s = .next t ∧ t = State.powerOnReset { s with rst := false } ∧
    t.rx = s.rx ∧ t.ctl = s.ctl ∧ t.log = s.log

/-! ## Frame assembler -/

/-- R103. -/
def Obligations.WaitSync1Step : Prop :=
  decodesFrom 0x0#4 .rxWaitSync1 ∧ ∀ (b : Byte) (s : State),
    exec (.rxWaitSync1 b) s = .next { s with st := if b = 0xB5#8 then .waitSync2 else .waitSync1 }

/-- R104. -/
def Obligations.WaitSync2Step : Prop :=
  decodesFrom 0x1#4 .rxWaitSync2 ∧ ∀ (b : Byte) (s : State),
    exec (.rxWaitSync2 b) s = .next
      { s with st := if b = 0x62#8 then .cls else if b = 0xB5#8 then .waitSync2 else .waitSync1 }

/-- R105. -/
def Obligations.ClassStep : Prop :=
  decodesFrom 0x2#4 .rxClass ∧ ∀ (b : Byte) (s : State), ∃ t, exec (.rxClass b) s = .next t ∧
    t = { s with cls := b, ckA := b, ckB := b, st := .id, written := t.written, unwrittenRead := t.unwrittenRead }

/-- R106, with R102. -/
def Obligations.IdStep : Prop :=
  decodesFrom 0x3#4 .rxId ∧ ∀ (b : Byte) (s : State), ∃ t, exec (.rxId b) s = .next t ∧
    t = { s with mid := b, ckA := nextA s b, ckB := nextB s b, st := .lenLo,
                 written := t.written, unwrittenRead := t.unwrittenRead }

/-- R107, with R102. -/
def Obligations.LenLoStep : Prop :=
  decodesFrom 0x4#4 .rxLenLo ∧ ∀ (b : Byte) (s : State), ∃ t, exec (.rxLenLo b) s = .next t ∧
    t = { s with len := BitVec.ofNat 16 b.toNat, ckA := nextA s b, ckB := nextB s b, st := .lenHi,
                 written := t.written, unwrittenRead := t.unwrittenRead }

/-- R108, with R102. -/
def Obligations.LenHiStep : Prop :=
  decodesFrom 0x5#4 .rxLenHi ∧ ∀ (b : Byte) (s : State), ∃ t, exec (.rxLenHi b) s = .next t ∧
    t = { s with len := BitVec.ofNat 16 (s.len.toNat % 256 + 256 * b.toNat), ckA := nextA s b, ckB := nextB s b,
                 cnt := 0#16, st := if s.len.toNat % 256 + 256 * b.toNat = 0 then .ckA else .payload,
                 written := t.written, unwrittenRead := t.unwrittenRead }

/-- R109, with R102. The hypothesis is that the index written exists (20_memory.md R40); it holds in every reachable state (R26). -/
def Obligations.PayloadStep : Prop :=
  decodesFrom 0x6#4 .rxPayload ∧ ∀ (b : Byte) (s : State), s.cnt.toNat < 65535 →
    ∃ t, exec (.rxPayload b) s = .next t ∧
      (∀ a, t.buf.read a = if a = s.cnt.toNat then some b else s.buf.read a) ∧
      t = { s with buf := t.buf, ckA := nextA s b, ckB := nextB s b, cnt := BitVec.ofNat 16 (s.cnt.toNat + 1),
                   st := if s.cnt.toNat + 1 = s.len.toNat then .ckA else .payload,
                   written := t.written, unwrittenRead := t.unwrittenRead }

/-- R110. -/
def Obligations.CkAStep : Prop :=
  decodesFrom 0x7#4 .rxCkA ∧ ∀ (b : Byte) (s : State), ∃ t, exec (.rxCkA b) s = .next t ∧
    t = { s with st := if b = s.ckA then .ckB else .waitSync1,
                 log := if b ≠ s.ckA ∧ s.cfg.diagEvents = true then
                     s.log ++ [⟨.ckaFail, (0x0000#16 ++ s.ckA ++ b : BitVec (16 + 8 + 8))⟩] else s.log,
                 written := t.written, unwrittenRead := t.unwrittenRead }

/-- R111. -/
def Obligations.CkBStep : Prop :=
  decodesFrom 0x8#4 .rxCkB ∧ ∀ (b : Byte) (s : State), ∃ t, exec (.rxCkB b) s = .next t ∧
    (b = s.ckB → t = { s with st := .waitSync1, hold := true,
                              log := s.log ++ [⟨.frame, (s.len ++ s.mid ++ s.cls : BitVec (16 + 8 + 8))⟩],
                              written := t.written, unwrittenRead := t.unwrittenRead }) ∧
    (b ≠ s.ckB → t = { s with st := .waitSync1,
                              log := if s.cfg.diagEvents = true then
                                  s.log ++ [⟨.ckbFail, (0x0000#16 ++ s.ckB ++ b : BitVec (16 + 8 + 8))⟩] else s.log,
                              written := t.written, unwrittenRead := t.unwrittenRead })

/-- R101: the recursion, the seeding from zero, and the closed forms, for every non-empty sequence. -/
def Obligations.ChecksumClosedForms : Prop :=
  ∀ (s0 : Byte) (rest : List Byte),
    ck s0 [] = (s0, s0) ∧
    (∀ x : Byte, (ck s0 (rest ++ [x])).1.toNat = ((ck s0 rest).1.toNat + x.toNat) % 256 ∧
      (ck s0 (rest ++ [x])).2.toNat = ((ck s0 rest).2.toNat + (ck s0 (rest ++ [x])).1.toNat) % 256) ∧
    ck s0 rest = (s0 :: rest).foldl ckNext (0#8, 0#8) ∧
    (ck s0 rest).1.toNat = ((s0 :: rest).map BitVec.toNat).sum % 256 ∧
    (ck s0 rest).2.toNat =
      ((s0 :: rest).mapIdx fun j x => (rest.length + 1 - j) * x.toNat).sum % 256

/-- 20_memory.md R40, the model's stop at an index that does not exist (log 11): `cnt = 65535` is held in no reachable `PAYLOAD` state. -/
def Obligations.PayloadStopsAtMissingIndex : Prop :=
  ∀ (b : Byte) (s : State), s.cnt = 0xFFFF#16 → exec (.rxPayload b) s = .fault (.noSuchByte 65535)

/-! ## Field decoder -/

/-- R140, every form at every offset, in a state where the bytes read hold values (R32). -/
def Obligations.FreadGeneralRule : Prop :=
  ∀ (width : Width) (signed : Bool) (off : Half),
    decode (.ctl (formWord width signed off)) = .ok (freadForm width signed off) ∧
    freadErrors (freadForm width signed off) (formWord width signed off) off width.bytes ∧
    ∀ (s : State) (bs : List Byte), s.hold = true → off.toNat + width.bytes ≤ s.len.toNat →
      bs.length = width.bytes → bytesAt s off.toNat bs →
      ∃ v : Word, emits (freadForm width signed off) s ⟨.field, v⟩ ∧
        (signed = false → v.toNat = leNat bs) ∧
        (signed = true → v.toInt = Int.bmod (leNat bs) (2 ^ (8 * width.bytes)))

/-- R142. -/
def Obligations.FreadU1Form : Prop :=
  decodesFromUpper 0x3000#16 .freadU1 ∧ ∀ off : Half,
    freadErrors (.freadU1 off) (0x3000#16 ++ off : BitVec (16 + 16)) off 1 ∧
    ∀ (s : State) (b0 : Byte), s.hold = true → off.toNat < s.len.toNat → bytesAt s off.toNat [b0] →
      emits (.freadU1 off) s ⟨.field, b0.setWidth 32⟩

/-- R143. -/
def Obligations.FreadI1Form : Prop :=
  decodesFromUpper 0x3004#16 .freadI1 ∧ ∀ off : Half,
    freadErrors (.freadI1 off) (0x3004#16 ++ off : BitVec (16 + 16)) off 1 ∧
    ∀ (s : State) (b0 : Byte), s.hold = true → off.toNat < s.len.toNat → bytesAt s off.toNat [b0] →
      emits (.freadI1 off) s ⟨.field, b0.signExtend 32⟩

/-- R144. -/
def Obligations.FreadU2Form : Prop :=
  decodesFromUpper 0x3001#16 .freadU2 ∧ ∀ off : Half,
    freadErrors (.freadU2 off) (0x3001#16 ++ off : BitVec (16 + 16)) off 2 ∧
    ∀ (s : State) (b0 b1 : Byte), s.hold = true → off.toNat + 2 ≤ s.len.toNat → bytesAt s off.toNat [b0, b1] →
      emits (.freadU2 off) s ⟨.field, (b1 ++ b0 : BitVec (8 + 8)).setWidth 32⟩

/-- R145. -/
def Obligations.FreadI2Form : Prop :=
  decodesFromUpper 0x3005#16 .freadI2 ∧ ∀ off : Half,
    freadErrors (.freadI2 off) (0x3005#16 ++ off : BitVec (16 + 16)) off 2 ∧
    ∀ (s : State) (b0 b1 : Byte), s.hold = true → off.toNat + 2 ≤ s.len.toNat → bytesAt s off.toNat [b0, b1] →
      emits (.freadI2 off) s ⟨.field, (b1 ++ b0 : BitVec (8 + 8)).signExtend 32⟩

/-- R146. -/
def Obligations.FreadU4Form : Prop :=
  decodesFromUpper 0x3002#16 .freadU4 ∧ ∀ off : Half,
    freadErrors (.freadU4 off) (0x3002#16 ++ off : BitVec (16 + 16)) off 4 ∧
    ∀ (s : State) (b0 b1 b2 b3 : Byte), s.hold = true → off.toNat + 4 ≤ s.len.toNat →
      bytesAt s off.toNat [b0, b1, b2, b3] →
      emits (.freadU4 off) s ⟨.field, (b3 ++ b2 ++ b1 ++ b0 : BitVec (8 + 8 + 8 + 8))⟩

/-- R147. -/
def Obligations.FreadI4Form : Prop :=
  decodesFromUpper 0x3006#16 .freadI4 ∧ ∀ off : Half,
    freadErrors (.freadI4 off) (0x3006#16 ++ off : BitVec (16 + 16)) off 4 ∧
    ∀ (s : State) (b0 b1 b2 b3 : Byte), s.hold = true → off.toNat + 4 ≤ s.len.toNat →
      bytesAt s off.toNat [b0, b1, b2, b3] →
      emits (.freadI4 off) s ⟨.field, (b3 ++ b2 ++ b1 ++ b0 : BitVec (8 + 8 + 8 + 8))⟩

/-- R141: a field read that goes on goes on alike when every byte outside the field is different or holds no value. -/
def Obligations.FreadSeesOnlyItsBytes : Prop :=
  ∀ (width : Width) (signed : Bool) (off : Half) (s t : State) (m : Memory),
    (∀ k, off.toNat ≤ k → k < off.toNat + width.bytes → m.read k = s.buf.read k) →
    exec (freadForm width signed off) s = .next t →
    exec (freadForm width signed off) { s with buf := m } = .next { t with buf := m }

/-- R44: a field read sees the bytes that one-byte reads at its offsets see, the byte at `off + k` in bits `8k+7 .. 8k`. -/
def Obligations.FreadAgreesWithByteReads : Prop :=
  ∀ (width : Width) (signed : Bool) (off : Half) (s t : State) (v : Word),
    exec (freadForm width signed off) s = .next t → t.log = s.log ++ [⟨.field, v⟩] →
    ∀ k, k < width.bytes →
      emits (.freadU1 (BitVec.ofNat 16 (off.toNat + k))) s ⟨.field, (v.extractLsb' (8 * k) 8).setWidth 32⟩

/-- R46: while one frame is held, a repeated `FREAD` returns the same value, whatever the FSR does in between. -/
def Obligations.HeldFieldReadsRepeat : Prop :=
  ∀ (width : Width) (signed : Bool) (off : Half) (s t u : State) (e : Event) (ops : List Operation),
    s.hold = true → exec (freadForm width signed off) s = .next t → t.log = s.log ++ [e] →
    (∀ op ∈ ops, op.quiet = true) → Run t ops u →
    ∃ v, exec (freadForm width signed off) u = .next v ∧ v.log = u.log ++ [e]

/-- R32, with the model's stop (log 3): a field read in bounds of which some byte holds no value stops at that byte, and returns no value. -/
def Obligations.UnwrittenFieldByteStops : Prop :=
  ∀ (width : Width) (signed : Bool) (off : Half) (s : State) (k : Nat),
    s.hold = true → off.toNat + width.bytes ≤ s.len.toNat → k < width.bytes →
    (∀ j, j < k → (s.buf.read (off.toNat + j)).isSome) → s.buf.read (off.toNat + k) = none →
    exec (freadForm width signed off) s = .fault (.unwrittenByte (off.toNat + k))

/-- R148: the byte-by-byte readout of a held payload. -/
def Obligations.RawReadoutReturnsPayload : Prop :=
  ∀ (s : State) (p : List Byte), s.hold = true → p.length = s.len.toNat → holdsPayload s.buf p →
    ∃ t, Run s ((List.range p.length).map fun k => .ctl (0x3000#16 ++ BitVec.ofNat 16 k : BitVec (16 + 16))) t ∧
      t.log = s.log ++ p.map fun b => ⟨.field, b.setWidth 32⟩

/-! ## Control commands -/

/-- R160. -/
def Obligations.AckStep : Prop :=
  (∀ w : Word, decode (.ctl w) = .ok .ack ↔ w = 0x10000000#32) ∧ ∀ s : State,
    (s.hold = true → exec .ack s = .next { s with hold := false }) ∧
    (s.hold = false → exec .ack s = .next
      { s with log := s.log ++ [⟨.cmdErr, 0x10000000#32⟩], faults := { s.faults with cmdErr := true } })

/-- R161. -/
def Obligations.CancelStep : Prop :=
  (∀ w : Word, decode (.ctl w) = .ok .cancel ↔ w = 0x20000000#32) ∧ ∀ s : State,
    exec .cancel s = .next { s with st := .waitSync1, hold := false }

/-- R162. -/
def Obligations.StatusStep : Prop :=
  (∀ w : Word, decode (.ctl w) = .ok .status ↔ w = 0x40000000#32) ∧ ∀ s : State,
    exec .status s = .next { s with log := s.log ++
      [⟨.status, BitVec.ofNat 32 (s.st.code.toNat + 16 * s.hold.toNat)⟩] }

/-- R163: which words are `ILLEGAL`, and that nothing but the event and the fault mark happens. -/
def Obligations.IllegalStep : Prop :=
  ∀ w : Word,
    (decode (.ctl w) = .ok (.illegal w) ↔
      w.toNat / 2 ^ 28 = 0 ∨ 5 ≤ w.toNat / 2 ^ 28 ∨
      ((w.toNat / 2 ^ 28 = 1 ∨ w.toNat / 2 ^ 28 = 2 ∨ w.toNat / 2 ^ 28 = 4) ∧ w.toNat % 2 ^ 28 ≠ 0) ∨
      (w.toNat / 2 ^ 28 = 3 ∧ (w.toNat / 2 ^ 19 % 2 ^ 9 ≠ 0 ∨ w.toNat / 2 ^ 16 % 4 = 3))) ∧
    ∀ s : State, exec (.illegal w) s = .next
      { s with log := s.log ++ [⟨.cmdErr, w⟩], faults := { s.faults with cmdErr := true } }

/-- R29: the layout of STATUS, every field of it, and its value after `Rst`. -/
def Obligations.StatusRegisterLayout : Prop :=
  (∀ s : State, s.statusWord.extractLsb' 0 4 = s.st.code ∧
    s.statusWord.getLsbD 4 = s.hold ∧ s.statusWord.extractLsb' 5 27 = 0#27) ∧
  (∀ s t : State, perform .rst s = .next t → t.statusWord = 0x00000000#32)

/-! ## Encoding -/

/-- Every well-formed instruction, with every value of its operand, is what its encoding decodes to. -/
def Obligations.DecodeOfEncode : Prop :=
  ∀ i : Instr, i.wf = true → decode (encode i) = .ok i

/-- Every transfer the decoder accepts has one instruction, which is well formed and encodes to that transfer. -/
def Obligations.EncodeOfDecode : Prop :=
  ∀ (x : Transfer) (i : Instr), decode x = .ok i → i.wf = true ∧ encode i = x

/-- R69: the decision list for command words. That a key with a reserved state code is refused by the name `reservedState` is the model's reading (log 13, DEDUCED): no `Rx` is decoded against such a code. -/
def Obligations.CommandDecodingIsTotal : Prop :=
  (∀ w : Word, decode (.ctl w) = .ok (
    if w.extractLsb' 28 4 = 0x1#4 ∧ w.extractLsb' 0 28 = 0#28 then .ack
    else if w.extractLsb' 28 4 = 0x2#4 ∧ w.extractLsb' 0 28 = 0#28 then .cancel
    else if w.extractLsb' 28 4 = 0x4#4 ∧ w.extractLsb' 0 28 = 0#28 then .status
    else if w.extractLsb' 28 4 = 0x3#4 ∧ w.extractLsb' 19 9 = 0#9 ∧ w.extractLsb' 16 2 ≠ 0b11#2 then
      freadForm (if w.extractLsb' 16 2 = 0b00#2 then .one else if w.extractLsb' 16 2 = 0b01#2 then .two else .four)
        (w.getLsbD 18) (w.extractLsb' 0 16)
    else .illegal w)) ∧
  (∀ key : RxKey, 0x9#4 ≤ key.extractLsb' 8 4 →
    decode (.rx key) = .error (.reservedState (key.extractLsb' 8 4)))

/-- The decoder reads a transfer as a row of the opcode table exactly when the transfer matches that row (and, for the catch-all row, no other). -/
def Obligations.OpcodeTableDecidesDecoding : Prop :=
  (∀ (w : Word) (i : Instr), i.row.format = .ctl → i.row.mnemonic ≠ "ILLEGAL" →
    (i.row.matchesWord w = true ↔ (decodeCtl w).row = i.row)) ∧
  (∀ (key : RxKey) (i : Instr), i.row.format = .rx →
    (i.row.matchesKey key = true ↔ ∃ j, decode (.rx key) = .ok j ∧ j.row = i.row))

/-- Keys and words written out from the spec's encodings, of each family, with two of the illegal words of 95_test_vectors.md section 3.3.
The last clause, a key with the reserved state code 9, rests on R69 and on the model's reading of it (log 13, DEDUCED). -/
def Obligations.WrittenOutWordsDecode : Prop :=
  decode (.rx 0x6B5#12) = .ok (.rxPayload 0xB5#8) ∧ decode (.rx 0x8DE#12) = .ok (.rxCkB 0xDE#8) ∧
    decode (.ctl 0x30060004#32) = .ok (.freadI4 4#16) ∧ decode (.ctl 0x30010007#32) = .ok (.freadU2 7#16) ∧
    decode (.ctl 0x3000FFFF#32) = .ok (.freadU1 0xFFFF#16) ∧ decode (.ctl 0x40000000#32) = .ok .status ∧
    decode (.ctl 0x10000000#32) = .ok .ack ∧ decode (.ctl 0x20000000#32) = .ok .cancel ∧
    decode (.ctl 0x10000001#32) = .ok (.illegal 0x10000001#32) ∧
    decode (.ctl 0x30080000#32) = .ok (.illegal 0x30080000#32) ∧
    decode (.rx 0x900#12) = .error (.reservedState 0x9#4)

/-- R72: the word of a FieldSpec, what it decodes to, and that an offset above 0xFFFF has no word.
For a repeated field of declared width 2 or 4 it rests on the model's reading (log 19, DEDUCED). -/
def Obligations.FieldSpecMapsToOneWord : Prop :=
  ∀ f : FieldSpec,
    (f.offset.toNat ≤ 0xFFFF →
      f.word = some (formWord (if f.repeated then .one else f.width) f.signed (BitVec.ofNat 16 f.offset.toNat)) ∧
      decode (.ctl (formWord (if f.repeated then .one else f.width) f.signed (BitVec.ofNat 16 f.offset.toNat))) =
        .ok (freadForm (if f.repeated then .one else f.width) f.signed (BitVec.ofNat 16 f.offset.toNat))) ∧
    (0xFFFF < f.offset.toNat → f.word = none)

/-! ## Ports and steps -/

/-- A step runs the instruction its transfer decodes to, with the transfer taken from the port and nothing else changed. -/
def Obligations.StepRunsTheDecodedInstruction : Prop :=
  (∀ (s : State) (b : Byte) (bs : List Byte) (i : Instr),
    s.rst = false → s.hold = false → s.rx = b :: bs → s.ctl = [] →
    decode (.rx (s.st.code ++ b : BitVec (4 + 8))) = .ok i → step s = exec i { s with rx := bs }) ∧
  (∀ (s : State) (w : Word) (ws : List Word) (i : Instr),
    s.rst = false → (s.hold = true ∨ s.rx = []) → s.ctl = w :: ws →
    decode (.ctl w) = .ok i → step s = exec i { s with ctl := ws })

/-- R48: with both ports offering, a step performs one of the two transfers, and the other stays first at its port.
Which one is a free value (log 6); the counter is the model's own. -/
def Obligations.ContestedStepTakesOneTransfer : Prop :=
  ∀ (s : State) (b : Byte) (bs : List Byte) (w : Word) (ws : List Word),
    s.rst = false → s.hold = false → s.rx = b :: bs → s.ctl = w :: ws →
    step s = exec (decodeRx s.st b) { s with rx := bs, arb := s.arb + 1 } ∨
    step s = exec (decodeCtl w) { s with ctl := ws, arb := s.arb + 1 }

/-- R100: when a byte is accepted, that it otherwise stays at the port, and what makes the port ready again. -/
def Obligations.RxAcceptsOnlyWhenReady : Prop :=
  (∀ s t : State, s.hold = true ∨ s.rst = true → step s = .next t → t.rx = s.rx) ∧
  (∀ (s : State) (b : Byte) (bs : List Byte), s.hold = false → s.rst = false → s.rx = b :: bs → s.ctl = [] →
    step s = perform (.rx b) { s with rx := bs }) ∧
  (∀ s t : State, s.hold = true → step s = .next t → t.hold = false →
    s.rst = true ∨ ∃ w ws, s.ctl = w :: ws ∧ (decodeCtl w = .ack ∨ decodeCtl w = .cancel))

/-- R116, R216: with nothing to accept, any number of steps changes nothing; R100, R246: so does a held frame with only bytes offered.
That such a step answers the same state is the model's reading (log 7, DEDUCED). -/
def Obligations.ParkedWithoutTransfers : Prop :=
  ∀ (k : Nat) (s : State), s.rst = false → s.ctl = [] → (s.rx = [] ∨ s.hold = true) →
    Host.Core.run Sys2Proof.core k s = .next s

/-- R115: bytes offered in two chunks, the second after the first has had its steps, are the same bytes offered at once. -/
def Obligations.ChunkBoundariesAreInvisible : Prop :=
  ∀ (s : State) (c₁ c₂ : List Byte),
    Host.Core.run Sys2Proof.core c₁.length (s.offerRx (c₁ ++ c₂)) =
      mapNext (State.offerRx c₂) (Host.Core.run Sys2Proof.core c₁.length (s.offerRx c₁))

/-- R249: a run of steps is weakly fair unless the free arbiter, from some choice on, always chooses the same port; and in a weakly fair run without further reset every word in the queue is eventually taken, and every byte when `rx` stays ready.
`WeaklyFair` is a premise of claims, not built into `step` (log 16); the counter the arbiter is applied to is the model's (log 6). -/
def Obligations.WeakFairnessServesBothPorts : Prop :=
  ∀ (σ : Nat → State) (o : Nat → Offer), Trace σ o →
    (WeaklyFair σ o ∨ ∃ (c : Nat) (v : Bool), ∀ k, c ≤ k → Config.rxFirst k = v) ∧
    (WeaklyFair σ o → ∀ n, (∀ m, n ≤ m → ((σ m).offer (o m)).rst = false) →
      (∃ k, (σ (n + k)).ctl <:+ offeredCtl o n k) ∧
      ((∀ m, n ≤ m → (σ m).hold = false) → ∃ k, (σ (n + k)).rx <:+ offeredRx o n k))

/-! ## Rules about every operation -/

/-- R22: what sets `hold`, what clears it, and that nothing else writes it. -/
def Obligations.HoldHasNoOtherWriter : Prop :=
  ∀ (op : Operation) (s t : State), perform op s = .next t →
    (t.hold = true ↔ (∃ b, op = .rx b ∧ s.st = .ckB ∧ b = s.ckB) ∨
      (s.hold = true ∧ op ≠ .rst ∧ ∀ w, op = .ctl w → decodeCtl w ≠ .ack ∧ decodeCtl w ≠ .cancel))

/-- R41, and R240 for `Rst` (log 4): a byte of the buffer changes only by a payload byte at `cnt`, or by power-on reset. -/
def Obligations.BufferHasOneWriter : Prop :=
  ∀ (op : Operation) (s t : State), perform op s = .next t → ∀ a, t.buf.read a ≠ s.buf.read a →
    (∃ b, op = .rx b ∧ s.st = .payload ∧ a = s.cnt.toNat ∧ t.buf.read a = some b) ∨
    (op = .rst ∧ t.buf.read a = none)

/-- R70: the codes, that each step appends at most one event and removes none, and what emits each code. -/
def Obligations.EventsComeFromTheirOperations : Prop :=
  (∀ c : EvCode, c.bits = match c with
    | .frame => 0x1#4 | .ckaFail => 0x2#4 | .ckbFail => 0x3#4 | .field => 0x4#4
    | .status => 0x5#4 | .cmdErr => 0x6#4 | .fieldOob => 0x7#4) ∧
  (∀ (op : Operation) (s t : State), perform op s = .next t →
    t.log = s.log ∨ ∃ e : Event, t.log = s.log ++ [e] ∧ emittedBy e.code op s)

/-- R204, R206: a kind is in the fault set after an operation exactly when it was there before or the operation is a misuse of that kind. -/
def Obligations.FaultsRecordExactlyMisuse : Prop :=
  ∀ (op : Operation) (s t : State) (k : FaultKind), perform op s = .next t →
    (t.faults.has k = true ↔ s.faults.has k = true ∨ misuse k op s)

/-- R205: an operation that is a misuse goes on, and changes nothing but the log and the fault set. -/
def Obligations.FaultChangesNoHardwareState : Prop :=
  ∀ (op : Operation) (s : State) (k : FaultKind), misuse k op s →
    ∃ t, perform op s = .next t ∧
      t = { s with log := t.log, faults := t.faults, unwrittenRead := t.unwrittenRead }

/-- R7: the parameter gates the two diagnostic events and changes nothing else. -/
def Obligations.DiagnosticsChangeOnlyTheLog : Prop :=
  ∀ (op : Operation) (s t : State) (c : Config), perform op s = .next t →
    (∃ t', perform op { s with cfg := c } = .next t' ∧ t' = { t with cfg := c, log := t'.log } ∧
      undiagnosed t'.log = undiagnosed t.log) ∧
    (s.cfg.diagEvents = false → ∀ e : Event, t.log = s.log ++ [e] → e.code ≠ .ckaFail ∧ e.code ≠ .ckbFail) ∧
    (s.cfg.diagEvents = true → ∀ b, op = .rx b →
      (s.st = .ckA → b ≠ s.ckA → ∃ e : Event, t.log = s.log ++ [e] ∧ e.code = .ckaFail) ∧
      (s.st = .ckB → b ≠ s.ckB → ∃ e : Event, t.log = s.log ++ [e] ∧ e.code = .ckbFail))

/-- The model's bookkeeping of R32 (log 1, log 2), by the columns "written by" and "read by" of R20: a register is marked written by the instructions that write it, and a read of a register that holds no value is marked. -/
def Obligations.BookkeepingFollowsTheRegisterTable : Prop :=
  ∀ (i : Instr) (s t : State), exec i s = .next t →
    (∀ r : Reg, t.written.has r = (s.written.has r || (regsWritten i).contains r)) ∧
    t.unwrittenRead = (s.unwrittenRead || (regsRead i s).any fun r => !s.written.has r)

/-- R210: while a frame is held and neither acknowledged, cancelled nor reset, no byte is accepted and no second frame is delivered. -/
def Obligations.HandOffsDoNotNest : Prop :=
  ∀ (s t : State) (ops : List Operation), s.hold = true → (∀ op ∈ ops, op.quiet = true) → Run s ops t →
    t.hold = true ∧ rxBytes ops = [] ∧ t.frameEvents = s.frameEvents ∧
    t.cls = s.cls ∧ t.mid = s.mid ∧ t.len = s.len ∧ t.buf = s.buf

/-! ## Invariants -/

/-- The invariant holds after power-on reset of every build. -/
def Obligations.InvariantHoldsAfterReset : Prop := ∀ cfg : Config, Inv (State.resetWith cfg)

/-- The invariant is kept by every step from every state that has it. -/
def Obligations.StepKeepsTheInvariant : Prop :=
  ∀ s t : State, Inv s → step s = .next t → Inv t

/-- R32: from every state with the invariant, a step goes on, and reads no register and no byte that holds no value. -/
def Obligations.StepNeverReadsUnwritten : Prop :=
  ∀ s : State, Inv s → ∃ t, step s = .next t ∧ t.unwrittenRead = s.unwrittenRead

/-- R32 over runs: whatever the host does after reset, nothing unwritten is read and no enabled operation stops the machine.
The values the model names for unwritten registers (log 1) therefore reach no result of a run. -/
def Obligations.RunsReadOnlyWrittenData : Prop :=
  ∀ (cfg : Config) (ops : List Operation) (t : State), Run (State.resetWith cfg) ops t →
    t.unwrittenRead = false ∧ ∀ op : Operation, op.enabled t = true → ∃ u, perform op t = .next u

/-- R203: from every state with the invariant, `CANCEL` and `Rst` return to `WAIT_SYNC1` with `hold = 0`, and with `hold = 0` every byte is accepted. -/
def Obligations.NoStateIsFatal : Prop :=
  ∀ s : State, Inv s →
    (∃ t, perform (.ctl 0x20000000#32) s = .next t ∧ t.st = .waitSync1 ∧ t.hold = false) ∧
    (∃ t, perform .rst s = .next t ∧ t.st = .waitSync1 ∧ t.hold = false) ∧
    (s.hold = false → ∀ b : Byte, (Operation.rx b).enabled s = true ∧ ∃ t, perform (.rx b) s = .next t)

/-- R113: over the history of covered bytes since the last `CLASS` step, every operation keeps the accumulators equal to the checksum of that history. -/
def Obligations.AccumulatorsAreTheChecksum : Prop :=
  (∀ (op : Operation) (s t : State) (h : List Byte), AccInv s h → perform op s = .next t →
    AccInv t (coveredAfter op s h)) ∧
  (∀ cfg : Config, AccInv (State.resetWith cfg) [])

/-! ## Frames -/

/-- R114: a valid frame is delivered, with commands other than `CANCEL` and `ACK` interleaved anywhere; a frame with one checksum byte changed is not. -/
def Obligations.ValidFramesAreDelivered : Prop :=
  ∀ (s : State) (c i : Byte) (p : List Byte) (ops : List Operation),
    p.length ≤ 65535 → s.hold = false → (s.st = .waitSync1 ∨ s.st = .waitSync2) →
    (∀ op ∈ ops, op.quiet = true) →
    (rxBytes ops = frameBytes c i p →
      ∃ t, Run s ops t ∧ t.st = .waitSync1 ∧ t.hold = true ∧ t.cls = c ∧ t.mid = i ∧ t.len.toNat = p.length ∧
        holdsPayload t.buf p ∧
        t.rxEvents = s.rxEvents ++ [⟨.frame, (BitVec.ofNat 16 p.length ++ i ++ c : BitVec (16 + 8 + 8))⟩]) ∧
    (∀ a b : Byte, rxBytes ops = wireBytes c i p a b →
      (a ≠ (frameCk c i p).1 ∧ b = (frameCk c i p).2) ∨ (a = (frameCk c i p).1 ∧ b ≠ (frameCk c i p).2) →
      ∃ t, Run s ops t ∧ t.frameEvents = s.frameEvents)

/-- R118: one class, id or payload byte changed, the checksum bytes left: the `CK_A` comparison fails and no frame is delivered. -/
def Obligations.OneChangedByteIsDetected : Prop :=
  ∀ (s : State) (c i c' i' v : Byte) (p p' : List Byte) (k : Nat) (ops₁ ops₂ : List Operation),
    p.length ≤ 65535 → s.hold = false → (s.st = .waitSync1 ∨ s.st = .waitSync2) →
    (∀ op ∈ ops₁ ++ ops₂, op.quiet = true) →
    (c :: i :: p)[k]? ≠ none → (c :: i :: p)[k]? ≠ some v → c' :: i' :: p' = (c :: i :: p).set k v →
    rxBytes ops₁ = 0xB5#8 :: 0x62#8 :: c' :: coveredTail i' p' →
    rxBytes ops₂ = [(frameCk c i p).1, (frameCk c i p).2] →
    ∃ u t, Run s ops₁ u ∧ u.st = .ckA ∧ u.ckA ≠ (frameCk c i p).1 ∧ Run u ops₂ t ∧
      t.hold = false ∧ t.frameEvents = s.frameEvents

/-- R152, R151: a frame whose payload stores values that fit their fields is delivered, and the consumer's reads of a registered message give a record with exactly those values; then `ACK` releases the frame.
For a repeated field of declared width 2 or 4 it rests on the model's reading (log 19, DEDUCED). -/
def Obligations.EncodedFieldsRoundTrip : Prop :=
  ∀ (reg : Registry) (c i : Byte) (p : List Byte) (fields : List (FieldSpec × Int)) (s : State),
    p.length ≤ 65535 → s.hold = false → (s.st = .waitSync1 ∨ s.st = .waitSync2) →
    reg.lookup (c, i) = some (fields.map (·.1)) →
    (∀ fv ∈ fields, fv.1.offset.toNat + fv.1.readWidth.bytes ≤ p.length ∧ fits fv.1 fv.2 ∧ storedAt p fv.1 fv.2) →
    ∃ (t u v : State) (words results : List Word),
      Run s ((frameBytes c i p).map .rx) t ∧
      consumerReads reg t.cls t.mid t.len = some words ∧ Run t (words.map .ctl) u ∧
      u.log = t.log ++ results.map fieldEvent ∧
      consumerRecord reg t.cls t.mid results = .decoded c i (fields.map fun fv => (fv.1.name, fv.2)) ∧
      perform (.ctl 0x10000000#32) u = .next v ∧ v.hold = false
end

