-- ==== Sys2Proof/Laws/Decode.lean ====
section
/-! SUPPORT. The fields of a command word and of an RX key: reading back what was put together, and putting together what was read. -/

namespace Sys2Proof

/-- A state's code is legal and names that state. -/
@[simp] theorem St.ofCode_code (st : St) : St.ofCode st.code = some st := by cases st <;> rfl

/-- A legal code is the code of the state it names. -/
theorem St.code_of_ofCode {c : BitVec 4} {st : St} (h : St.ofCode c = some st) : st.code = c := by
  unfold St.ofCode at h
  repeat' split at h
  all_goals first
    | (cases h; exact (‹c = _› : _).symm)
    | cases h

/-- The state code of a key. -/
@[simp] theorem rxKey_state (st : St) (b : Byte) : (rxKey st b).extractLsb' 8 4 = st.code := by
  have h := BitVec.extractLsb'_append_eq_of_le (xhi := st.code) (xlo := b) (start := 8) (len := 4) (by omega)
  simpa [rxKey] using h

/-- The byte of a key. -/
@[simp] theorem rxKey_byte (st : St) (b : Byte) : (rxKey st b).extractLsb' 0 8 = b := by
  have h := BitVec.extractLsb'_append_eq_of_add_le (xhi := st.code) (xlo := b) (start := 0) (len := 8) (by omega)
  simpa [rxKey] using h

/-- A key is its state code and its byte. -/
theorem key_fields (key : RxKey) : (key.extractLsb' 8 4 ++ key.extractLsb' 0 8 : BitVec (4 + 8)) = key := by
  apply BitVec.eq_of_getLsbD_eq
  intro i hi
  rw [BitVec.getLsbD_append]
  simp only [BitVec.getLsbD_extractLsb']
  split
  · simp [*]
  · have h₁ : i - 8 < 4 := by omega
    have h₂ : 8 + (i - 8) = i := by omega
    simp [h₁, h₂]

/-- The fields of a word that was put together from fields are those fields (R65). -/
@[simp] theorem CtlFields.ofWord_toWord (f : CtlFields) : CtlFields.ofWord f.toWord = f := by
  obtain ⟨op, rsv, sgn, wc, off⟩ := f
  simp only [CtlFields.ofWord, CtlFields.toWord, CtlFields.mk.injEq]
  refine ⟨?_, ?_, ?_, ?_, ?_⟩ <;>
  · apply BitVec.eq_of_getLsbD_eq
    intro i hi
    rw [BitVec.getLsbD_extractLsb']
    repeat' rw [BitVec.getLsbD_append]
    simp only [hi, decide_true, Bool.true_and]
    repeat' split
    all_goals first | omega | (congr 1; omega)

/-- A word is put together from its fields (R65). -/
@[simp] theorem CtlFields.toWord_ofWord (w : Word) : (CtlFields.ofWord w).toWord = w := by
  simp only [CtlFields.ofWord, CtlFields.toWord]
  apply BitVec.eq_of_getLsbD_eq
  intro i hi
  repeat' rw [BitVec.getLsbD_append]
  repeat' rw [BitVec.getLsbD_extractLsb']
  repeat' split
  all_goals
    rw [decide_eq_true (by omega), Bool.true_and]
    congr 1
    omega

/-- The fields of a `FREAD` word (R67). -/
@[simp] theorem ofWord_freadWord (sgn : BitVec 1) (wc : BitVec 2) (off : Half) :
    CtlFields.ofWord (freadWord sgn wc off) = { op := 0x3#4, rsv := 0#9, sgn := sgn, wc := wc, off := off } :=
  CtlFields.ofWord_toWord _

end Sys2Proof
end

