-- ==== Sys2Proof/Laws/Memory.lean ====
section
/-! SUPPORT. The payload buffer: reading what was written, the canonical form kept by every operation, and what a little-endian read answers. -/

namespace Sys2Proof.Machine

/-- A byte just written reads as the value written, in any buffer. -/
@[simp] theorem Memory.read_write_same (m : Memory) (a : Nat) (v : Byte) : (m.write a v).read a = some v := by
  induction m with
  | nil => simp [Memory.write, Memory.read]
  | cons c m ih =>
    unfold Memory.write
    split
    · simp [Memory.read]
    · split
      · simp [Memory.read]
      · simp only [Memory.read]
        rw [if_neg (by omega), ih]

/-- A write leaves every other byte alone, in any buffer. -/
theorem Memory.read_write_other (m : Memory) {a a' : Nat} (v : Byte) (h : a' ≠ a) :
    (m.write a v).read a' = m.read a' := by
  induction m with
  | nil => simp [Memory.write, Memory.read, h.symm]
  | cons c m ih =>
    unfold Memory.write
    split
    · simp [Memory.read, h.symm]
    · split
      · subst a
        simp [Memory.read, h.symm]
      · simp only [Memory.read, ih]

/-- Both read laws in one equation. -/
theorem Memory.read_write (m : Memory) (a a' : Nat) (v : Byte) :
    (m.write a v).read a' = if a' = a then some v else m.read a' := by
  split
  · subst a'; simp
  · exact m.read_write_other v ‹_›

/-- Every cell of the buffer after a write is the written one or was there before. -/
theorem Memory.mem_write {m : Memory} {a : Nat} {v : Byte} {c : Host.Cell} (h : c ∈ m.write a v) :
    c = (a, v) ∨ c ∈ m := by
  induction m with
  | nil => simpa [Memory.write] using h
  | cons d m ih =>
    unfold Memory.write at h
    split at h
    · simpa using h
    · split at h
      · simp at h ⊢; tauto
      · rcases List.mem_cons.1 h with rfl | h
        · simp
        · rcases ih h with rfl | h <;> simp [*]

/-- The empty buffer is in canonical form. -/
theorem Memory.wf_nil : Memory.wf [] := by simp [Memory.wf]

/-- A write inside the buffer keeps the canonical form. -/
theorem Memory.wf_write {m : Memory} {a : Nat} (v : Byte) (ha : a < payloadCap) (h : m.wf) : (m.write a v).wf := by
  refine ⟨?_, fun c hc => ?_⟩
  · have hs := h.1
    clear h ha
    induction m with
    | nil => simp [Memory.write]
    | cons d m ih =>
      rw [List.pairwise_cons] at hs
      unfold Memory.write
      split
      case isTrue hlt =>
        refine List.pairwise_cons.2 ⟨fun c hc => ?_, List.pairwise_cons.2 hs⟩
        rcases List.mem_cons.1 hc with rfl | hc
        · exact hlt
        · exact lt_trans hlt (hs.1 c hc)
      case isFalse hge =>
        split
        case isTrue heq => exact List.pairwise_cons.2 ⟨fun c hc => heq ▸ hs.1 c hc, hs.2⟩
        case isFalse hne =>
          refine List.pairwise_cons.2 ⟨fun c hc => ?_, ih hs.2⟩
          rcases Memory.mem_write hc with rfl | hc
          · show d.1 < a
            omega
          · exact hs.1 c hc
  · rcases Memory.mem_write hc with rfl | hc
    · exact ⟨ha, by simp [Memory.unlisted]⟩
    · exact h.2 c hc

/-- Everything `MemWrite` can do when it succeeds: the index exists, and only `buf` changes. -/
theorem State.memWrite_ok {s t : State} {i : Nat} {v : Byte} (h : s.memWrite i v = .ok t) :
    i < payloadCap ∧ t = s.setBuf (s.buf.write i v) := by
  unfold State.memWrite at h
  split at h
  · exact ⟨‹_›, by cases h; rfl⟩
  · cases h

/-- `MemWrite` keeps the canonical form. -/
theorem State.memWrite_wf {s t : State} {i : Nat} {v : Byte} (hs : s.buf.wf) (h : s.memWrite i v = .ok t) :
    t.buf.wf := by
  obtain ⟨hi, rfl⟩ := State.memWrite_ok h
  exact Memory.wf_write v hi hs

/-- Power-on reset leaves the buffer in canonical form. -/
theorem State.powerOnReset_wf (s : State) : s.powerOnReset.buf.wf := Memory.wf_nil

/-- Reset memory is in canonical form. -/
theorem State.reset_wf : State.reset.buf.wf := Memory.wf_nil

/-- A byte read answers a value exactly when the index exists and the byte has been written. -/
theorem State.readByte_eq_ok {s : State} {i : Nat} {v : Byte} :
    s.readByte i = .ok v ↔ i < payloadCap ∧ s.buf.read i = some v := by
  unfold State.readByte
  split
  · cases s.buf.read i <;> simp [*]
  · simp [*]

/-- One more byte of a little-endian read, when the byte is there. -/
theorem State.memRead_succ {s : State} {off n : Nat} {v : Byte} {rest : Word}
    (hv : s.readByte off = .ok v) (hr : s.memRead (off + 1) n = .ok rest) :
    s.memRead off (n + 1) = .ok (v.setWidth 32 ||| (rest <<< 8)) := by
  simp [State.memRead, hv, hr]

/-- A little-endian read answers a value when every one of its bytes exists and has been written. -/
theorem State.memRead_completes {s : State} (n : Nat) : ∀ {off : Nat}, off + n ≤ payloadCap →
    (∀ k, off ≤ k → k < off + n → (s.buf.read k).isSome) → ∃ v, s.memRead off n = .ok v := by
  induction n with
  | zero => intro off _ _; exact ⟨_, rfl⟩
  | succ n ih =>
    intro off hcap hb
    obtain ⟨v, hv⟩ := Option.isSome_iff_exists.1 (hb off (le_refl _) (by omega))
    obtain ⟨rest, hr⟩ := ih (off := off + 1) (by omega) (fun k h₁ h₂ => hb k (by omega) (by omega))
    exact ⟨_, State.memRead_succ (State.readByte_eq_ok.2 ⟨by omega, hv⟩) hr⟩

/-- A little-endian read depends only on the bytes it reads. -/
theorem State.memRead_congr {s t : State} (n : Nat) : ∀ {off : Nat},
    (∀ k, off ≤ k → k < off + n → s.buf.read k = t.buf.read k) → s.memRead off n = t.memRead off n := by
  induction n with
  | zero => intro off _; rfl
  | succ n ih =>
    intro off h
    have hb : s.readByte off = t.readByte off := by
      simp [State.readByte, h off (le_refl _) (by omega)]
    simp [State.memRead, hb, ih (off := off + 1) (fun k h₁ h₂ => h k (by omega) (by omega))]

end Sys2Proof.Machine
end

