-- ==== Sys2Proof/Laws/State.lean ====
section
/-! SUPPORT. One lemma per field of State per update, each true by `rfl` (after a case split for a guarded update), so that no proof unfolds a record update. -/

namespace Sys2Proof.Machine

variable (s : State)

/-! ### setSt -/

@[simp] theorem State.setSt_st (v : St) : (s.setSt v).st = v := rfl
@[simp] theorem State.setSt_hold (v : St) : (s.setSt v).hold = s.hold := rfl
@[simp] theorem State.setSt_cls (v : St) : (s.setSt v).cls = s.cls := rfl
@[simp] theorem State.setSt_mid (v : St) : (s.setSt v).mid = s.mid := rfl
@[simp] theorem State.setSt_len (v : St) : (s.setSt v).len = s.len := rfl
@[simp] theorem State.setSt_cnt (v : St) : (s.setSt v).cnt = s.cnt := rfl
@[simp] theorem State.setSt_ckA (v : St) : (s.setSt v).ckA = s.ckA := rfl
@[simp] theorem State.setSt_ckB (v : St) : (s.setSt v).ckB = s.ckB := rfl
@[simp] theorem State.setSt_buf (v : St) : (s.setSt v).buf = s.buf := rfl
@[simp] theorem State.setSt_written (v : St) : (s.setSt v).written = s.written := rfl
@[simp] theorem State.setSt_unwrittenRead (v : St) : (s.setSt v).unwrittenRead = s.unwrittenRead := rfl
@[simp] theorem State.setSt_log (v : St) : (s.setSt v).log = s.log := rfl
@[simp] theorem State.setSt_faults (v : St) : (s.setSt v).faults = s.faults := rfl
@[simp] theorem State.setSt_rx (v : St) : (s.setSt v).rx = s.rx := rfl
@[simp] theorem State.setSt_ctl (v : St) : (s.setSt v).ctl = s.ctl := rfl
@[simp] theorem State.setSt_rst (v : St) : (s.setSt v).rst = s.rst := rfl
@[simp] theorem State.setSt_arb (v : St) : (s.setSt v).arb = s.arb := rfl
@[simp] theorem State.setSt_cfg (v : St) : (s.setSt v).cfg = s.cfg := rfl

/-! ### setHold -/

@[simp] theorem State.setHold_st (v : Bool) : (s.setHold v).st = s.st := rfl
@[simp] theorem State.setHold_hold (v : Bool) : (s.setHold v).hold = v := rfl
@[simp] theorem State.setHold_cls (v : Bool) : (s.setHold v).cls = s.cls := rfl
@[simp] theorem State.setHold_mid (v : Bool) : (s.setHold v).mid = s.mid := rfl
@[simp] theorem State.setHold_len (v : Bool) : (s.setHold v).len = s.len := rfl
@[simp] theorem State.setHold_cnt (v : Bool) : (s.setHold v).cnt = s.cnt := rfl
@[simp] theorem State.setHold_ckA (v : Bool) : (s.setHold v).ckA = s.ckA := rfl
@[simp] theorem State.setHold_ckB (v : Bool) : (s.setHold v).ckB = s.ckB := rfl
@[simp] theorem State.setHold_buf (v : Bool) : (s.setHold v).buf = s.buf := rfl
@[simp] theorem State.setHold_written (v : Bool) : (s.setHold v).written = s.written := rfl
@[simp] theorem State.setHold_unwrittenRead (v : Bool) : (s.setHold v).unwrittenRead = s.unwrittenRead := rfl
@[simp] theorem State.setHold_log (v : Bool) : (s.setHold v).log = s.log := rfl
@[simp] theorem State.setHold_faults (v : Bool) : (s.setHold v).faults = s.faults := rfl
@[simp] theorem State.setHold_rx (v : Bool) : (s.setHold v).rx = s.rx := rfl
@[simp] theorem State.setHold_ctl (v : Bool) : (s.setHold v).ctl = s.ctl := rfl
@[simp] theorem State.setHold_rst (v : Bool) : (s.setHold v).rst = s.rst := rfl
@[simp] theorem State.setHold_arb (v : Bool) : (s.setHold v).arb = s.arb := rfl
@[simp] theorem State.setHold_cfg (v : Bool) : (s.setHold v).cfg = s.cfg := rfl

/-! ### setCls -/

@[simp] theorem State.setCls_st (v : Byte) : (s.setCls v).st = s.st := rfl
@[simp] theorem State.setCls_hold (v : Byte) : (s.setCls v).hold = s.hold := rfl
@[simp] theorem State.setCls_cls (v : Byte) : (s.setCls v).cls = v := rfl
@[simp] theorem State.setCls_mid (v : Byte) : (s.setCls v).mid = s.mid := rfl
@[simp] theorem State.setCls_len (v : Byte) : (s.setCls v).len = s.len := rfl
@[simp] theorem State.setCls_cnt (v : Byte) : (s.setCls v).cnt = s.cnt := rfl
@[simp] theorem State.setCls_ckA (v : Byte) : (s.setCls v).ckA = s.ckA := rfl
@[simp] theorem State.setCls_ckB (v : Byte) : (s.setCls v).ckB = s.ckB := rfl
@[simp] theorem State.setCls_buf (v : Byte) : (s.setCls v).buf = s.buf := rfl
@[simp] theorem State.setCls_written (v : Byte) : (s.setCls v).written = { s.written with cls := true } := rfl
@[simp] theorem State.setCls_unwrittenRead (v : Byte) : (s.setCls v).unwrittenRead = s.unwrittenRead := rfl
@[simp] theorem State.setCls_log (v : Byte) : (s.setCls v).log = s.log := rfl
@[simp] theorem State.setCls_faults (v : Byte) : (s.setCls v).faults = s.faults := rfl
@[simp] theorem State.setCls_rx (v : Byte) : (s.setCls v).rx = s.rx := rfl
@[simp] theorem State.setCls_ctl (v : Byte) : (s.setCls v).ctl = s.ctl := rfl
@[simp] theorem State.setCls_rst (v : Byte) : (s.setCls v).rst = s.rst := rfl
@[simp] theorem State.setCls_arb (v : Byte) : (s.setCls v).arb = s.arb := rfl
@[simp] theorem State.setCls_cfg (v : Byte) : (s.setCls v).cfg = s.cfg := rfl

/-! ### setMid -/

@[simp] theorem State.setMid_st (v : Byte) : (s.setMid v).st = s.st := rfl
@[simp] theorem State.setMid_hold (v : Byte) : (s.setMid v).hold = s.hold := rfl
@[simp] theorem State.setMid_cls (v : Byte) : (s.setMid v).cls = s.cls := rfl
@[simp] theorem State.setMid_mid (v : Byte) : (s.setMid v).mid = v := rfl
@[simp] theorem State.setMid_len (v : Byte) : (s.setMid v).len = s.len := rfl
@[simp] theorem State.setMid_cnt (v : Byte) : (s.setMid v).cnt = s.cnt := rfl
@[simp] theorem State.setMid_ckA (v : Byte) : (s.setMid v).ckA = s.ckA := rfl
@[simp] theorem State.setMid_ckB (v : Byte) : (s.setMid v).ckB = s.ckB := rfl
@[simp] theorem State.setMid_buf (v : Byte) : (s.setMid v).buf = s.buf := rfl
@[simp] theorem State.setMid_written (v : Byte) : (s.setMid v).written = { s.written with mid := true } := rfl
@[simp] theorem State.setMid_unwrittenRead (v : Byte) : (s.setMid v).unwrittenRead = s.unwrittenRead := rfl
@[simp] theorem State.setMid_log (v : Byte) : (s.setMid v).log = s.log := rfl
@[simp] theorem State.setMid_faults (v : Byte) : (s.setMid v).faults = s.faults := rfl
@[simp] theorem State.setMid_rx (v : Byte) : (s.setMid v).rx = s.rx := rfl
@[simp] theorem State.setMid_ctl (v : Byte) : (s.setMid v).ctl = s.ctl := rfl
@[simp] theorem State.setMid_rst (v : Byte) : (s.setMid v).rst = s.rst := rfl
@[simp] theorem State.setMid_arb (v : Byte) : (s.setMid v).arb = s.arb := rfl
@[simp] theorem State.setMid_cfg (v : Byte) : (s.setMid v).cfg = s.cfg := rfl

/-! ### setLen -/

@[simp] theorem State.setLen_st (v : Half) : (s.setLen v).st = s.st := rfl
@[simp] theorem State.setLen_hold (v : Half) : (s.setLen v).hold = s.hold := rfl
@[simp] theorem State.setLen_cls (v : Half) : (s.setLen v).cls = s.cls := rfl
@[simp] theorem State.setLen_mid (v : Half) : (s.setLen v).mid = s.mid := rfl
@[simp] theorem State.setLen_len (v : Half) : (s.setLen v).len = v := rfl
@[simp] theorem State.setLen_cnt (v : Half) : (s.setLen v).cnt = s.cnt := rfl
@[simp] theorem State.setLen_ckA (v : Half) : (s.setLen v).ckA = s.ckA := rfl
@[simp] theorem State.setLen_ckB (v : Half) : (s.setLen v).ckB = s.ckB := rfl
@[simp] theorem State.setLen_buf (v : Half) : (s.setLen v).buf = s.buf := rfl
@[simp] theorem State.setLen_written (v : Half) : (s.setLen v).written = { s.written with len := true } := rfl
@[simp] theorem State.setLen_unwrittenRead (v : Half) : (s.setLen v).unwrittenRead = s.unwrittenRead := rfl
@[simp] theorem State.setLen_log (v : Half) : (s.setLen v).log = s.log := rfl
@[simp] theorem State.setLen_faults (v : Half) : (s.setLen v).faults = s.faults := rfl
@[simp] theorem State.setLen_rx (v : Half) : (s.setLen v).rx = s.rx := rfl
@[simp] theorem State.setLen_ctl (v : Half) : (s.setLen v).ctl = s.ctl := rfl
@[simp] theorem State.setLen_rst (v : Half) : (s.setLen v).rst = s.rst := rfl
@[simp] theorem State.setLen_arb (v : Half) : (s.setLen v).arb = s.arb := rfl
@[simp] theorem State.setLen_cfg (v : Half) : (s.setLen v).cfg = s.cfg := rfl

/-! ### setCnt -/

@[simp] theorem State.setCnt_st (v : Half) : (s.setCnt v).st = s.st := rfl
@[simp] theorem State.setCnt_hold (v : Half) : (s.setCnt v).hold = s.hold := rfl
@[simp] theorem State.setCnt_cls (v : Half) : (s.setCnt v).cls = s.cls := rfl
@[simp] theorem State.setCnt_mid (v : Half) : (s.setCnt v).mid = s.mid := rfl
@[simp] theorem State.setCnt_len (v : Half) : (s.setCnt v).len = s.len := rfl
@[simp] theorem State.setCnt_cnt (v : Half) : (s.setCnt v).cnt = v := rfl
@[simp] theorem State.setCnt_ckA (v : Half) : (s.setCnt v).ckA = s.ckA := rfl
@[simp] theorem State.setCnt_ckB (v : Half) : (s.setCnt v).ckB = s.ckB := rfl
@[simp] theorem State.setCnt_buf (v : Half) : (s.setCnt v).buf = s.buf := rfl
@[simp] theorem State.setCnt_written (v : Half) : (s.setCnt v).written = { s.written with cnt := true } := rfl
@[simp] theorem State.setCnt_unwrittenRead (v : Half) : (s.setCnt v).unwrittenRead = s.unwrittenRead := rfl
@[simp] theorem State.setCnt_log (v : Half) : (s.setCnt v).log = s.log := rfl
@[simp] theorem State.setCnt_faults (v : Half) : (s.setCnt v).faults = s.faults := rfl
@[simp] theorem State.setCnt_rx (v : Half) : (s.setCnt v).rx = s.rx := rfl
@[simp] theorem State.setCnt_ctl (v : Half) : (s.setCnt v).ctl = s.ctl := rfl
@[simp] theorem State.setCnt_rst (v : Half) : (s.setCnt v).rst = s.rst := rfl
@[simp] theorem State.setCnt_arb (v : Half) : (s.setCnt v).arb = s.arb := rfl
@[simp] theorem State.setCnt_cfg (v : Half) : (s.setCnt v).cfg = s.cfg := rfl

/-! ### setCkA -/

@[simp] theorem State.setCkA_st (v : Byte) : (s.setCkA v).st = s.st := rfl
@[simp] theorem State.setCkA_hold (v : Byte) : (s.setCkA v).hold = s.hold := rfl
@[simp] theorem State.setCkA_cls (v : Byte) : (s.setCkA v).cls = s.cls := rfl
@[simp] theorem State.setCkA_mid (v : Byte) : (s.setCkA v).mid = s.mid := rfl
@[simp] theorem State.setCkA_len (v : Byte) : (s.setCkA v).len = s.len := rfl
@[simp] theorem State.setCkA_cnt (v : Byte) : (s.setCkA v).cnt = s.cnt := rfl
@[simp] theorem State.setCkA_ckA (v : Byte) : (s.setCkA v).ckA = v := rfl
@[simp] theorem State.setCkA_ckB (v : Byte) : (s.setCkA v).ckB = s.ckB := rfl
@[simp] theorem State.setCkA_buf (v : Byte) : (s.setCkA v).buf = s.buf := rfl
@[simp] theorem State.setCkA_written (v : Byte) : (s.setCkA v).written = { s.written with ckA := true } := rfl
@[simp] theorem State.setCkA_unwrittenRead (v : Byte) : (s.setCkA v).unwrittenRead = s.unwrittenRead := rfl
@[simp] theorem State.setCkA_log (v : Byte) : (s.setCkA v).log = s.log := rfl
@[simp] theorem State.setCkA_faults (v : Byte) : (s.setCkA v).faults = s.faults := rfl
@[simp] theorem State.setCkA_rx (v : Byte) : (s.setCkA v).rx = s.rx := rfl
@[simp] theorem State.setCkA_ctl (v : Byte) : (s.setCkA v).ctl = s.ctl := rfl
@[simp] theorem State.setCkA_rst (v : Byte) : (s.setCkA v).rst = s.rst := rfl
@[simp] theorem State.setCkA_arb (v : Byte) : (s.setCkA v).arb = s.arb := rfl
@[simp] theorem State.setCkA_cfg (v : Byte) : (s.setCkA v).cfg = s.cfg := rfl

/-! ### setCkB -/

@[simp] theorem State.setCkB_st (v : Byte) : (s.setCkB v).st = s.st := rfl
@[simp] theorem State.setCkB_hold (v : Byte) : (s.setCkB v).hold = s.hold := rfl
@[simp] theorem State.setCkB_cls (v : Byte) : (s.setCkB v).cls = s.cls := rfl
@[simp] theorem State.setCkB_mid (v : Byte) : (s.setCkB v).mid = s.mid := rfl
@[simp] theorem State.setCkB_len (v : Byte) : (s.setCkB v).len = s.len := rfl
@[simp] theorem State.setCkB_cnt (v : Byte) : (s.setCkB v).cnt = s.cnt := rfl
@[simp] theorem State.setCkB_ckA (v : Byte) : (s.setCkB v).ckA = s.ckA := rfl
@[simp] theorem State.setCkB_ckB (v : Byte) : (s.setCkB v).ckB = v := rfl
@[simp] theorem State.setCkB_buf (v : Byte) : (s.setCkB v).buf = s.buf := rfl
@[simp] theorem State.setCkB_written (v : Byte) : (s.setCkB v).written = { s.written with ckB := true } := rfl
@[simp] theorem State.setCkB_unwrittenRead (v : Byte) : (s.setCkB v).unwrittenRead = s.unwrittenRead := rfl
@[simp] theorem State.setCkB_log (v : Byte) : (s.setCkB v).log = s.log := rfl
@[simp] theorem State.setCkB_faults (v : Byte) : (s.setCkB v).faults = s.faults := rfl
@[simp] theorem State.setCkB_rx (v : Byte) : (s.setCkB v).rx = s.rx := rfl
@[simp] theorem State.setCkB_ctl (v : Byte) : (s.setCkB v).ctl = s.ctl := rfl
@[simp] theorem State.setCkB_rst (v : Byte) : (s.setCkB v).rst = s.rst := rfl
@[simp] theorem State.setCkB_arb (v : Byte) : (s.setCkB v).arb = s.arb := rfl
@[simp] theorem State.setCkB_cfg (v : Byte) : (s.setCkB v).cfg = s.cfg := rfl

/-! ### noteRead -/

@[simp] theorem State.noteRead_st (r : Reg) : (s.noteRead r).st = s.st := rfl
@[simp] theorem State.noteRead_hold (r : Reg) : (s.noteRead r).hold = s.hold := rfl
@[simp] theorem State.noteRead_cls (r : Reg) : (s.noteRead r).cls = s.cls := rfl
@[simp] theorem State.noteRead_mid (r : Reg) : (s.noteRead r).mid = s.mid := rfl
@[simp] theorem State.noteRead_len (r : Reg) : (s.noteRead r).len = s.len := rfl
@[simp] theorem State.noteRead_cnt (r : Reg) : (s.noteRead r).cnt = s.cnt := rfl
@[simp] theorem State.noteRead_ckA (r : Reg) : (s.noteRead r).ckA = s.ckA := rfl
@[simp] theorem State.noteRead_ckB (r : Reg) : (s.noteRead r).ckB = s.ckB := rfl
@[simp] theorem State.noteRead_buf (r : Reg) : (s.noteRead r).buf = s.buf := rfl
@[simp] theorem State.noteRead_written (r : Reg) : (s.noteRead r).written = s.written := rfl
@[simp] theorem State.noteRead_unwrittenRead (r : Reg) : (s.noteRead r).unwrittenRead = (s.unwrittenRead || !s.written.has r) := rfl
@[simp] theorem State.noteRead_log (r : Reg) : (s.noteRead r).log = s.log := rfl
@[simp] theorem State.noteRead_faults (r : Reg) : (s.noteRead r).faults = s.faults := rfl
@[simp] theorem State.noteRead_rx (r : Reg) : (s.noteRead r).rx = s.rx := rfl
@[simp] theorem State.noteRead_ctl (r : Reg) : (s.noteRead r).ctl = s.ctl := rfl
@[simp] theorem State.noteRead_rst (r : Reg) : (s.noteRead r).rst = s.rst := rfl
@[simp] theorem State.noteRead_arb (r : Reg) : (s.noteRead r).arb = s.arb := rfl
@[simp] theorem State.noteRead_cfg (r : Reg) : (s.noteRead r).cfg = s.cfg := rfl

/-! ### setBuf -/

@[simp] theorem State.setBuf_st (m : Memory) : (s.setBuf m).st = s.st := rfl
@[simp] theorem State.setBuf_hold (m : Memory) : (s.setBuf m).hold = s.hold := rfl
@[simp] theorem State.setBuf_cls (m : Memory) : (s.setBuf m).cls = s.cls := rfl
@[simp] theorem State.setBuf_mid (m : Memory) : (s.setBuf m).mid = s.mid := rfl
@[simp] theorem State.setBuf_len (m : Memory) : (s.setBuf m).len = s.len := rfl
@[simp] theorem State.setBuf_cnt (m : Memory) : (s.setBuf m).cnt = s.cnt := rfl
@[simp] theorem State.setBuf_ckA (m : Memory) : (s.setBuf m).ckA = s.ckA := rfl
@[simp] theorem State.setBuf_ckB (m : Memory) : (s.setBuf m).ckB = s.ckB := rfl
@[simp] theorem State.setBuf_buf (m : Memory) : (s.setBuf m).buf = m := rfl
@[simp] theorem State.setBuf_written (m : Memory) : (s.setBuf m).written = s.written := rfl
@[simp] theorem State.setBuf_unwrittenRead (m : Memory) : (s.setBuf m).unwrittenRead = s.unwrittenRead := rfl
@[simp] theorem State.setBuf_log (m : Memory) : (s.setBuf m).log = s.log := rfl
@[simp] theorem State.setBuf_faults (m : Memory) : (s.setBuf m).faults = s.faults := rfl
@[simp] theorem State.setBuf_rx (m : Memory) : (s.setBuf m).rx = s.rx := rfl
@[simp] theorem State.setBuf_ctl (m : Memory) : (s.setBuf m).ctl = s.ctl := rfl
@[simp] theorem State.setBuf_rst (m : Memory) : (s.setBuf m).rst = s.rst := rfl
@[simp] theorem State.setBuf_arb (m : Memory) : (s.setBuf m).arb = s.arb := rfl
@[simp] theorem State.setBuf_cfg (m : Memory) : (s.setBuf m).cfg = s.cfg := rfl

/-! ### emit -/

@[simp] theorem State.emit_st (e : Event) : (s.emit e).st = s.st := rfl
@[simp] theorem State.emit_hold (e : Event) : (s.emit e).hold = s.hold := rfl
@[simp] theorem State.emit_cls (e : Event) : (s.emit e).cls = s.cls := rfl
@[simp] theorem State.emit_mid (e : Event) : (s.emit e).mid = s.mid := rfl
@[simp] theorem State.emit_len (e : Event) : (s.emit e).len = s.len := rfl
@[simp] theorem State.emit_cnt (e : Event) : (s.emit e).cnt = s.cnt := rfl
@[simp] theorem State.emit_ckA (e : Event) : (s.emit e).ckA = s.ckA := rfl
@[simp] theorem State.emit_ckB (e : Event) : (s.emit e).ckB = s.ckB := rfl
@[simp] theorem State.emit_buf (e : Event) : (s.emit e).buf = s.buf := rfl
@[simp] theorem State.emit_written (e : Event) : (s.emit e).written = s.written := rfl
@[simp] theorem State.emit_unwrittenRead (e : Event) : (s.emit e).unwrittenRead = s.unwrittenRead := rfl
@[simp] theorem State.emit_log (e : Event) : (s.emit e).log = s.log ++ [e] := rfl
@[simp] theorem State.emit_faults (e : Event) : (s.emit e).faults = s.faults := rfl
@[simp] theorem State.emit_rx (e : Event) : (s.emit e).rx = s.rx := rfl
@[simp] theorem State.emit_ctl (e : Event) : (s.emit e).ctl = s.ctl := rfl
@[simp] theorem State.emit_rst (e : Event) : (s.emit e).rst = s.rst := rfl
@[simp] theorem State.emit_arb (e : Event) : (s.emit e).arb = s.arb := rfl
@[simp] theorem State.emit_cfg (e : Event) : (s.emit e).cfg = s.cfg := rfl

/-! ### raiseFault -/

@[simp] theorem State.raiseFault_st (k : FaultKind) : (s.raiseFault k).st = s.st := rfl
@[simp] theorem State.raiseFault_hold (k : FaultKind) : (s.raiseFault k).hold = s.hold := rfl
@[simp] theorem State.raiseFault_cls (k : FaultKind) : (s.raiseFault k).cls = s.cls := rfl
@[simp] theorem State.raiseFault_mid (k : FaultKind) : (s.raiseFault k).mid = s.mid := rfl
@[simp] theorem State.raiseFault_len (k : FaultKind) : (s.raiseFault k).len = s.len := rfl
@[simp] theorem State.raiseFault_cnt (k : FaultKind) : (s.raiseFault k).cnt = s.cnt := rfl
@[simp] theorem State.raiseFault_ckA (k : FaultKind) : (s.raiseFault k).ckA = s.ckA := rfl
@[simp] theorem State.raiseFault_ckB (k : FaultKind) : (s.raiseFault k).ckB = s.ckB := rfl
@[simp] theorem State.raiseFault_buf (k : FaultKind) : (s.raiseFault k).buf = s.buf := rfl
@[simp] theorem State.raiseFault_written (k : FaultKind) : (s.raiseFault k).written = s.written := rfl
@[simp] theorem State.raiseFault_unwrittenRead (k : FaultKind) : (s.raiseFault k).unwrittenRead = s.unwrittenRead := rfl
@[simp] theorem State.raiseFault_log (k : FaultKind) : (s.raiseFault k).log = s.log := rfl
@[simp] theorem State.raiseFault_faults (k : FaultKind) : (s.raiseFault k).faults = s.faults.add k := rfl
@[simp] theorem State.raiseFault_rx (k : FaultKind) : (s.raiseFault k).rx = s.rx := rfl
@[simp] theorem State.raiseFault_ctl (k : FaultKind) : (s.raiseFault k).ctl = s.ctl := rfl
@[simp] theorem State.raiseFault_rst (k : FaultKind) : (s.raiseFault k).rst = s.rst := rfl
@[simp] theorem State.raiseFault_arb (k : FaultKind) : (s.raiseFault k).arb = s.arb := rfl
@[simp] theorem State.raiseFault_cfg (k : FaultKind) : (s.raiseFault k).cfg = s.cfg := rfl

/-! ### ckUpd -/

@[simp] theorem State.ckUpd_st (b : Byte) : (s.ckUpd b).st = s.st := rfl
@[simp] theorem State.ckUpd_hold (b : Byte) : (s.ckUpd b).hold = s.hold := rfl
@[simp] theorem State.ckUpd_cls (b : Byte) : (s.ckUpd b).cls = s.cls := rfl
@[simp] theorem State.ckUpd_mid (b : Byte) : (s.ckUpd b).mid = s.mid := rfl
@[simp] theorem State.ckUpd_len (b : Byte) : (s.ckUpd b).len = s.len := rfl
@[simp] theorem State.ckUpd_cnt (b : Byte) : (s.ckUpd b).cnt = s.cnt := rfl
@[simp] theorem State.ckUpd_ckA (b : Byte) : (s.ckUpd b).ckA = s.ckA + b := rfl
@[simp] theorem State.ckUpd_ckB (b : Byte) : (s.ckUpd b).ckB = s.ckB + (s.ckA + b) := rfl
@[simp] theorem State.ckUpd_buf (b : Byte) : (s.ckUpd b).buf = s.buf := rfl
@[simp] theorem State.ckUpd_written (b : Byte) : (s.ckUpd b).written = { s.written with ckA := true, ckB := true } := rfl
@[simp] theorem State.ckUpd_unwrittenRead (b : Byte) : (s.ckUpd b).unwrittenRead = (s.unwrittenRead || !s.written.ckA || !s.written.ckB) := rfl
@[simp] theorem State.ckUpd_log (b : Byte) : (s.ckUpd b).log = s.log := rfl
@[simp] theorem State.ckUpd_faults (b : Byte) : (s.ckUpd b).faults = s.faults := rfl
@[simp] theorem State.ckUpd_rx (b : Byte) : (s.ckUpd b).rx = s.rx := rfl
@[simp] theorem State.ckUpd_ctl (b : Byte) : (s.ckUpd b).ctl = s.ctl := rfl
@[simp] theorem State.ckUpd_rst (b : Byte) : (s.ckUpd b).rst = s.rst := rfl
@[simp] theorem State.ckUpd_arb (b : Byte) : (s.ckUpd b).arb = s.arb := rfl
@[simp] theorem State.ckUpd_cfg (b : Byte) : (s.ckUpd b).cfg = s.cfg := rfl

/-! ### powerOnReset -/

@[simp] theorem State.powerOnReset_st : (s.powerOnReset).st = .waitSync1 := rfl
@[simp] theorem State.powerOnReset_hold : (s.powerOnReset).hold = false := rfl
@[simp] theorem State.powerOnReset_cls : (s.powerOnReset).cls = 0#8 := rfl
@[simp] theorem State.powerOnReset_mid : (s.powerOnReset).mid = 0#8 := rfl
@[simp] theorem State.powerOnReset_len : (s.powerOnReset).len = 0#16 := rfl
@[simp] theorem State.powerOnReset_cnt : (s.powerOnReset).cnt = 0#16 := rfl
@[simp] theorem State.powerOnReset_ckA : (s.powerOnReset).ckA = 0#8 := rfl
@[simp] theorem State.powerOnReset_ckB : (s.powerOnReset).ckB = 0#8 := rfl
@[simp] theorem State.powerOnReset_buf : (s.powerOnReset).buf = [] := rfl
@[simp] theorem State.powerOnReset_written : (s.powerOnReset).written = Written.none := rfl
@[simp] theorem State.powerOnReset_unwrittenRead : (s.powerOnReset).unwrittenRead = s.unwrittenRead := rfl
@[simp] theorem State.powerOnReset_log : (s.powerOnReset).log = s.log := rfl
@[simp] theorem State.powerOnReset_faults : (s.powerOnReset).faults = s.faults := rfl
@[simp] theorem State.powerOnReset_rx : (s.powerOnReset).rx = s.rx := rfl
@[simp] theorem State.powerOnReset_ctl : (s.powerOnReset).ctl = s.ctl := rfl
@[simp] theorem State.powerOnReset_rst : (s.powerOnReset).rst = s.rst := rfl
@[simp] theorem State.powerOnReset_arb : (s.powerOnReset).arb = s.arb := rfl
@[simp] theorem State.powerOnReset_cfg : (s.powerOnReset).cfg = s.cfg := rfl

/-! ### offerRx -/

@[simp] theorem State.offerRx_st (bs : List Byte) : (s.offerRx bs).st = s.st := rfl
@[simp] theorem State.offerRx_hold (bs : List Byte) : (s.offerRx bs).hold = s.hold := rfl
@[simp] theorem State.offerRx_cls (bs : List Byte) : (s.offerRx bs).cls = s.cls := rfl
@[simp] theorem State.offerRx_mid (bs : List Byte) : (s.offerRx bs).mid = s.mid := rfl
@[simp] theorem State.offerRx_len (bs : List Byte) : (s.offerRx bs).len = s.len := rfl
@[simp] theorem State.offerRx_cnt (bs : List Byte) : (s.offerRx bs).cnt = s.cnt := rfl
@[simp] theorem State.offerRx_ckA (bs : List Byte) : (s.offerRx bs).ckA = s.ckA := rfl
@[simp] theorem State.offerRx_ckB (bs : List Byte) : (s.offerRx bs).ckB = s.ckB := rfl
@[simp] theorem State.offerRx_buf (bs : List Byte) : (s.offerRx bs).buf = s.buf := rfl
@[simp] theorem State.offerRx_written (bs : List Byte) : (s.offerRx bs).written = s.written := rfl
@[simp] theorem State.offerRx_unwrittenRead (bs : List Byte) : (s.offerRx bs).unwrittenRead = s.unwrittenRead := rfl
@[simp] theorem State.offerRx_log (bs : List Byte) : (s.offerRx bs).log = s.log := rfl
@[simp] theorem State.offerRx_faults (bs : List Byte) : (s.offerRx bs).faults = s.faults := rfl
@[simp] theorem State.offerRx_rx (bs : List Byte) : (s.offerRx bs).rx = s.rx ++ bs := rfl
@[simp] theorem State.offerRx_ctl (bs : List Byte) : (s.offerRx bs).ctl = s.ctl := rfl
@[simp] theorem State.offerRx_rst (bs : List Byte) : (s.offerRx bs).rst = s.rst := rfl
@[simp] theorem State.offerRx_arb (bs : List Byte) : (s.offerRx bs).arb = s.arb := rfl
@[simp] theorem State.offerRx_cfg (bs : List Byte) : (s.offerRx bs).cfg = s.cfg := rfl

/-! ### offerCtl -/

@[simp] theorem State.offerCtl_st (ws : List Word) : (s.offerCtl ws).st = s.st := rfl
@[simp] theorem State.offerCtl_hold (ws : List Word) : (s.offerCtl ws).hold = s.hold := rfl
@[simp] theorem State.offerCtl_cls (ws : List Word) : (s.offerCtl ws).cls = s.cls := rfl
@[simp] theorem State.offerCtl_mid (ws : List Word) : (s.offerCtl ws).mid = s.mid := rfl
@[simp] theorem State.offerCtl_len (ws : List Word) : (s.offerCtl ws).len = s.len := rfl
@[simp] theorem State.offerCtl_cnt (ws : List Word) : (s.offerCtl ws).cnt = s.cnt := rfl
@[simp] theorem State.offerCtl_ckA (ws : List Word) : (s.offerCtl ws).ckA = s.ckA := rfl
@[simp] theorem State.offerCtl_ckB (ws : List Word) : (s.offerCtl ws).ckB = s.ckB := rfl
@[simp] theorem State.offerCtl_buf (ws : List Word) : (s.offerCtl ws).buf = s.buf := rfl
@[simp] theorem State.offerCtl_written (ws : List Word) : (s.offerCtl ws).written = s.written := rfl
@[simp] theorem State.offerCtl_unwrittenRead (ws : List Word) : (s.offerCtl ws).unwrittenRead = s.unwrittenRead := rfl
@[simp] theorem State.offerCtl_log (ws : List Word) : (s.offerCtl ws).log = s.log := rfl
@[simp] theorem State.offerCtl_faults (ws : List Word) : (s.offerCtl ws).faults = s.faults := rfl
@[simp] theorem State.offerCtl_rx (ws : List Word) : (s.offerCtl ws).rx = s.rx := rfl
@[simp] theorem State.offerCtl_ctl (ws : List Word) : (s.offerCtl ws).ctl = s.ctl ++ ws := rfl
@[simp] theorem State.offerCtl_rst (ws : List Word) : (s.offerCtl ws).rst = s.rst := rfl
@[simp] theorem State.offerCtl_arb (ws : List Word) : (s.offerCtl ws).arb = s.arb := rfl
@[simp] theorem State.offerCtl_cfg (ws : List Word) : (s.offerCtl ws).cfg = s.cfg := rfl

/-! ### offer -/

@[simp] theorem State.offer_st (o : Offer) : (s.offer o).st = s.st := rfl
@[simp] theorem State.offer_hold (o : Offer) : (s.offer o).hold = s.hold := rfl
@[simp] theorem State.offer_cls (o : Offer) : (s.offer o).cls = s.cls := rfl
@[simp] theorem State.offer_mid (o : Offer) : (s.offer o).mid = s.mid := rfl
@[simp] theorem State.offer_len (o : Offer) : (s.offer o).len = s.len := rfl
@[simp] theorem State.offer_cnt (o : Offer) : (s.offer o).cnt = s.cnt := rfl
@[simp] theorem State.offer_ckA (o : Offer) : (s.offer o).ckA = s.ckA := rfl
@[simp] theorem State.offer_ckB (o : Offer) : (s.offer o).ckB = s.ckB := rfl
@[simp] theorem State.offer_buf (o : Offer) : (s.offer o).buf = s.buf := rfl
@[simp] theorem State.offer_written (o : Offer) : (s.offer o).written = s.written := rfl
@[simp] theorem State.offer_unwrittenRead (o : Offer) : (s.offer o).unwrittenRead = s.unwrittenRead := rfl
@[simp] theorem State.offer_log (o : Offer) : (s.offer o).log = s.log := rfl
@[simp] theorem State.offer_faults (o : Offer) : (s.offer o).faults = s.faults := rfl
@[simp] theorem State.offer_rx (o : Offer) : (s.offer o).rx = s.rx ++ o.rx := rfl
@[simp] theorem State.offer_ctl (o : Offer) : (s.offer o).ctl = s.ctl ++ o.ctl := rfl
@[simp] theorem State.offer_rst (o : Offer) : (s.offer o).rst = (s.rst || o.rst) := rfl
@[simp] theorem State.offer_arb (o : Offer) : (s.offer o).arb = s.arb := rfl
@[simp] theorem State.offer_cfg (o : Offer) : (s.offer o).cfg = s.cfg := rfl

/-! ### assertRst -/

@[simp] theorem State.assertRst_st : (s.assertRst).st = s.st := rfl
@[simp] theorem State.assertRst_hold : (s.assertRst).hold = s.hold := rfl
@[simp] theorem State.assertRst_cls : (s.assertRst).cls = s.cls := rfl
@[simp] theorem State.assertRst_mid : (s.assertRst).mid = s.mid := rfl
@[simp] theorem State.assertRst_len : (s.assertRst).len = s.len := rfl
@[simp] theorem State.assertRst_cnt : (s.assertRst).cnt = s.cnt := rfl
@[simp] theorem State.assertRst_ckA : (s.assertRst).ckA = s.ckA := rfl
@[simp] theorem State.assertRst_ckB : (s.assertRst).ckB = s.ckB := rfl
@[simp] theorem State.assertRst_buf : (s.assertRst).buf = s.buf := rfl
@[simp] theorem State.assertRst_written : (s.assertRst).written = s.written := rfl
@[simp] theorem State.assertRst_unwrittenRead : (s.assertRst).unwrittenRead = s.unwrittenRead := rfl
@[simp] theorem State.assertRst_log : (s.assertRst).log = s.log := rfl
@[simp] theorem State.assertRst_faults : (s.assertRst).faults = s.faults := rfl
@[simp] theorem State.assertRst_rx : (s.assertRst).rx = s.rx := rfl
@[simp] theorem State.assertRst_ctl : (s.assertRst).ctl = s.ctl := rfl
@[simp] theorem State.assertRst_rst : (s.assertRst).rst = true := rfl
@[simp] theorem State.assertRst_arb : (s.assertRst).arb = s.arb := rfl
@[simp] theorem State.assertRst_cfg : (s.assertRst).cfg = s.cfg := rfl

/-! ### countChoice -/

@[simp] theorem State.countChoice_st : (s.countChoice).st = s.st := rfl
@[simp] theorem State.countChoice_hold : (s.countChoice).hold = s.hold := rfl
@[simp] theorem State.countChoice_cls : (s.countChoice).cls = s.cls := rfl
@[simp] theorem State.countChoice_mid : (s.countChoice).mid = s.mid := rfl
@[simp] theorem State.countChoice_len : (s.countChoice).len = s.len := rfl
@[simp] theorem State.countChoice_cnt : (s.countChoice).cnt = s.cnt := rfl
@[simp] theorem State.countChoice_ckA : (s.countChoice).ckA = s.ckA := rfl
@[simp] theorem State.countChoice_ckB : (s.countChoice).ckB = s.ckB := rfl
@[simp] theorem State.countChoice_buf : (s.countChoice).buf = s.buf := rfl
@[simp] theorem State.countChoice_written : (s.countChoice).written = s.written := rfl
@[simp] theorem State.countChoice_unwrittenRead : (s.countChoice).unwrittenRead = s.unwrittenRead := rfl
@[simp] theorem State.countChoice_log : (s.countChoice).log = s.log := rfl
@[simp] theorem State.countChoice_faults : (s.countChoice).faults = s.faults := rfl
@[simp] theorem State.countChoice_rx : (s.countChoice).rx = s.rx := rfl
@[simp] theorem State.countChoice_ctl : (s.countChoice).ctl = s.ctl := rfl
@[simp] theorem State.countChoice_rst : (s.countChoice).rst = s.rst := rfl
@[simp] theorem State.countChoice_arb : (s.countChoice).arb = s.arb + 1 := rfl
@[simp] theorem State.countChoice_cfg : (s.countChoice).cfg = s.cfg := rfl

/-! ### emitDiag: only the log, and only in a build with `DIAG_EVENTS` -/

@[simp] theorem State.emitDiag_st (e : Event) : (s.emitDiag e).st = s.st := by
  unfold State.emitDiag; split <;> rfl
@[simp] theorem State.emitDiag_hold (e : Event) : (s.emitDiag e).hold = s.hold := by
  unfold State.emitDiag; split <;> rfl
@[simp] theorem State.emitDiag_cls (e : Event) : (s.emitDiag e).cls = s.cls := by
  unfold State.emitDiag; split <;> rfl
@[simp] theorem State.emitDiag_mid (e : Event) : (s.emitDiag e).mid = s.mid := by
  unfold State.emitDiag; split <;> rfl
@[simp] theorem State.emitDiag_len (e : Event) : (s.emitDiag e).len = s.len := by
  unfold State.emitDiag; split <;> rfl
@[simp] theorem State.emitDiag_cnt (e : Event) : (s.emitDiag e).cnt = s.cnt := by
  unfold State.emitDiag; split <;> rfl
@[simp] theorem State.emitDiag_ckA (e : Event) : (s.emitDiag e).ckA = s.ckA := by
  unfold State.emitDiag; split <;> rfl
@[simp] theorem State.emitDiag_ckB (e : Event) : (s.emitDiag e).ckB = s.ckB := by
  unfold State.emitDiag; split <;> rfl
@[simp] theorem State.emitDiag_buf (e : Event) : (s.emitDiag e).buf = s.buf := by
  unfold State.emitDiag; split <;> rfl
@[simp] theorem State.emitDiag_written (e : Event) : (s.emitDiag e).written = s.written := by
  unfold State.emitDiag; split <;> rfl
@[simp] theorem State.emitDiag_unwrittenRead (e : Event) : (s.emitDiag e).unwrittenRead = s.unwrittenRead := by
  unfold State.emitDiag; split <;> rfl
@[simp] theorem State.emitDiag_log (e : Event) :
    (s.emitDiag e).log = if s.cfg.diagEvents then s.log ++ [e] else s.log := by
  unfold State.emitDiag; split <;> simp
@[simp] theorem State.emitDiag_faults (e : Event) : (s.emitDiag e).faults = s.faults := by
  unfold State.emitDiag; split <;> rfl
@[simp] theorem State.emitDiag_rx (e : Event) : (s.emitDiag e).rx = s.rx := by
  unfold State.emitDiag; split <;> rfl
@[simp] theorem State.emitDiag_ctl (e : Event) : (s.emitDiag e).ctl = s.ctl := by
  unfold State.emitDiag; split <;> rfl
@[simp] theorem State.emitDiag_rst (e : Event) : (s.emitDiag e).rst = s.rst := by
  unfold State.emitDiag; split <;> rfl
@[simp] theorem State.emitDiag_arb (e : Event) : (s.emitDiag e).arb = s.arb := by
  unfold State.emitDiag; split <;> rfl
@[simp] theorem State.emitDiag_cfg (e : Event) : (s.emitDiag e).cfg = s.cfg := by
  unfold State.emitDiag; split <;> rfl

/-! ### commandError and fieldOutOfBounds: the log and the fault set -/

@[simp] theorem State.commandError_st (w : Word) : (s.commandError w).st = s.st := rfl
@[simp] theorem State.commandError_hold (w : Word) : (s.commandError w).hold = s.hold := rfl
@[simp] theorem State.commandError_cls (w : Word) : (s.commandError w).cls = s.cls := rfl
@[simp] theorem State.commandError_mid (w : Word) : (s.commandError w).mid = s.mid := rfl
@[simp] theorem State.commandError_len (w : Word) : (s.commandError w).len = s.len := rfl
@[simp] theorem State.commandError_cnt (w : Word) : (s.commandError w).cnt = s.cnt := rfl
@[simp] theorem State.commandError_ckA (w : Word) : (s.commandError w).ckA = s.ckA := rfl
@[simp] theorem State.commandError_ckB (w : Word) : (s.commandError w).ckB = s.ckB := rfl
@[simp] theorem State.commandError_buf (w : Word) : (s.commandError w).buf = s.buf := rfl
@[simp] theorem State.commandError_written (w : Word) : (s.commandError w).written = s.written := rfl
@[simp] theorem State.commandError_unwrittenRead (w : Word) : (s.commandError w).unwrittenRead = s.unwrittenRead := rfl
@[simp] theorem State.commandError_log (w : Word) : (s.commandError w).log = s.log ++ [cmdErrEvent w] := rfl
@[simp] theorem State.commandError_faults (w : Word) : (s.commandError w).faults = s.faults.add .cmdErr := rfl
@[simp] theorem State.commandError_rx (w : Word) : (s.commandError w).rx = s.rx := rfl
@[simp] theorem State.commandError_ctl (w : Word) : (s.commandError w).ctl = s.ctl := rfl
@[simp] theorem State.commandError_rst (w : Word) : (s.commandError w).rst = s.rst := rfl
@[simp] theorem State.commandError_arb (w : Word) : (s.commandError w).arb = s.arb := rfl
@[simp] theorem State.commandError_cfg (w : Word) : (s.commandError w).cfg = s.cfg := rfl

@[simp] theorem State.fieldOutOfBounds_st (w : Word) : (s.fieldOutOfBounds w).st = s.st := rfl
@[simp] theorem State.fieldOutOfBounds_hold (w : Word) : (s.fieldOutOfBounds w).hold = s.hold := rfl
@[simp] theorem State.fieldOutOfBounds_cls (w : Word) : (s.fieldOutOfBounds w).cls = s.cls := rfl
@[simp] theorem State.fieldOutOfBounds_mid (w : Word) : (s.fieldOutOfBounds w).mid = s.mid := rfl
@[simp] theorem State.fieldOutOfBounds_len (w : Word) : (s.fieldOutOfBounds w).len = s.len := rfl
@[simp] theorem State.fieldOutOfBounds_cnt (w : Word) : (s.fieldOutOfBounds w).cnt = s.cnt := rfl
@[simp] theorem State.fieldOutOfBounds_ckA (w : Word) : (s.fieldOutOfBounds w).ckA = s.ckA := rfl
@[simp] theorem State.fieldOutOfBounds_ckB (w : Word) : (s.fieldOutOfBounds w).ckB = s.ckB := rfl
@[simp] theorem State.fieldOutOfBounds_buf (w : Word) : (s.fieldOutOfBounds w).buf = s.buf := rfl
@[simp] theorem State.fieldOutOfBounds_written (w : Word) : (s.fieldOutOfBounds w).written = s.written := rfl
@[simp] theorem State.fieldOutOfBounds_unwrittenRead (w : Word) : (s.fieldOutOfBounds w).unwrittenRead = s.unwrittenRead := rfl
@[simp] theorem State.fieldOutOfBounds_log (w : Word) : (s.fieldOutOfBounds w).log = s.log ++ [fieldOobEvent w] := rfl
@[simp] theorem State.fieldOutOfBounds_faults (w : Word) : (s.fieldOutOfBounds w).faults = s.faults.add .fieldOob := rfl
@[simp] theorem State.fieldOutOfBounds_rx (w : Word) : (s.fieldOutOfBounds w).rx = s.rx := rfl
@[simp] theorem State.fieldOutOfBounds_ctl (w : Word) : (s.fieldOutOfBounds w).ctl = s.ctl := rfl
@[simp] theorem State.fieldOutOfBounds_rst (w : Word) : (s.fieldOutOfBounds w).rst = s.rst := rfl
@[simp] theorem State.fieldOutOfBounds_arb (w : Word) : (s.fieldOutOfBounds w).arb = s.arb := rfl
@[simp] theorem State.fieldOutOfBounds_cfg (w : Word) : (s.fieldOutOfBounds w).cfg = s.cfg := rfl

end Sys2Proof.Machine
end

