-- ==== Sys2Proof/Laws/Ops.lean ====
section
/-! SUPPORT. One lemma for each shared operation that says everything it can do; proofs cite these and do not unfold the operations. -/

namespace Sys2Proof.Machine

/-- `FREAD` with no held frame (R140, first check). -/
theorem State.fread_noFrame {w : Word} {off : Half} {n : Nat} {signed : Bool} {s : State} (h : s.hold = false) :
    s.fread w off n signed = .next (s.commandError w) := by
  simp [State.fread, h]

/-- `FREAD` out of bounds (R149). -/
theorem State.fread_outside {w : Word} {off : Half} {n : Nat} {signed : Bool} {s : State}
    (h : s.hold = true) (ho : s.len.toNat < off.toNat + n) :
    s.fread w off n signed = .next ((s.noteRead .len).fieldOutOfBounds w) := by
  simp [State.fread, h, fieldOutside, ho]

/-- `FREAD` in bounds of bytes that hold values (R140). -/
theorem State.fread_inside {w : Word} {off : Half} {n : Nat} {signed : Bool} {s : State} {raw : Word}
    (h : s.hold = true) (ho : off.toNat + n ≤ s.len.toNat) (hr : s.memRead off.toNat n = .ok raw) :
    s.fread w off n signed = .next ((s.noteRead .len).emit (fieldEvent (extendField signed n raw))) := by
  have hm : (s.noteRead .len).memRead off.toNat n = .ok raw := by
    rw [← hr]; exact State.memRead_congr n (fun k _ _ => rfl)
  have hb : ¬ s.len.toNat < off.toNat + n := by omega
  simp [State.fread, h, fieldOutside, hb, hm]

/-- Everything `FREAD` can do when it goes on: one of the three events of R140, with the checks in R140's order. -/
theorem State.fread_next {w : Word} {off : Half} {n : Nat} {signed : Bool} {s t : State}
    (h : s.fread w off n signed = .next t) :
    (s.hold = false ∧ t = s.commandError w) ∨
    (s.hold = true ∧ s.len.toNat < off.toNat + n ∧ t = (s.noteRead .len).fieldOutOfBounds w) ∨
    (s.hold = true ∧ off.toNat + n ≤ s.len.toNat ∧ ∃ raw, s.memRead off.toNat n = .ok raw ∧
      t = (s.noteRead .len).emit (fieldEvent (extendField signed n raw))) := by
  cases hh : s.hold with
  | false => rw [State.fread_noFrame hh] at h; cases h; exact .inl ⟨rfl, rfl⟩
  | true =>
    by_cases ho : s.len.toNat < off.toNat + n
    · rw [State.fread_outside hh ho] at h; cases h; exact .inr (.inl ⟨rfl, ho, rfl⟩)
    · cases hr : s.memRead off.toNat n with
      | ok raw =>
        rw [State.fread_inside hh (by omega) hr] at h; cases h
        exact .inr (.inr ⟨rfl, by omega, raw, rfl, rfl⟩)
      | error f =>
        have hm : (s.noteRead .len).memRead off.toNat n = .error f := by
          rw [← hr]; exact State.memRead_congr n (fun k _ _ => rfl)
        simp [State.fread, hh, fieldOutside, ho, hm] at h

/-- Everything a step can take from the ports: the operation is enabled, and only the ports and the arbiter's counter change. -/
theorem State.take_some {s t : State} {op : Operation} (h : s.take = some (op, t)) :
    op.enabled s = true ∧
    ((op = .rst ∧ s.rst = true ∧ t = { s with rst := false }) ∨
     (∃ b bs, op = .rx b ∧ s.rst = false ∧ s.hold = false ∧ s.rx = b :: bs ∧
        (t = { s with rx := bs } ∨ t = { s with rx := bs, arb := s.arb + 1 })) ∨
     (∃ w ws, op = .ctl w ∧ s.rst = false ∧ s.ctl = w :: ws ∧
        (t = { s with ctl := ws } ∨ t = { s with ctl := ws, arb := s.arb + 1 }))) := by
  have hctl : s.rst = false → s.takeCtl = some (op, t) →
      op.enabled s = true ∧ ∃ w ws, op = .ctl w ∧ s.rst = false ∧ s.ctl = w :: ws ∧
        (t = { s with ctl := ws } ∨ t = { s with ctl := ws, arb := s.arb + 1 }) := by
    intro hr hc
    unfold State.takeCtl at hc
    split at hc
    · cases hc
    · cases hc; exact ⟨rfl, _, _, rfl, hr, ‹_›, .inl rfl⟩
  unfold State.take at h
  split at h
  case isTrue hr => cases h; exact ⟨rfl, .inl ⟨rfl, hr, rfl⟩⟩
  case isFalse hr =>
    have hr' : s.rst = false := by simpa using hr
    split at h
    case isTrue hh => exact ⟨(hctl hr' h).1, .inr (.inr (hctl hr' h).2)⟩
    case isFalse hh =>
      have hh' : s.hold = false := by simpa using hh
      split at h
      · exact ⟨(hctl hr' h).1, .inr (.inr (hctl hr' h).2)⟩
      · cases h
        exact ⟨by simp [Operation.enabled, hh'], .inr (.inl ⟨_, _, rfl, hr', hh', ‹_›, .inl rfl⟩)⟩
      · split at h
        · cases h
          exact ⟨by simp [Operation.enabled, hh'], .inr (.inl ⟨_, _, rfl, hr', hh', ‹_›, .inr rfl⟩)⟩
        · cases h
          exact ⟨rfl, .inr (.inr ⟨_, _, rfl, hr', ‹_›, .inr rfl⟩)⟩

/-- Taking a transfer changes no FSR register and nothing the model records: it commutes with forgetting the ports. -/
theorem State.take_keeps {s t : State} {op : Operation} (h : s.take = some (op, t)) :
    t = { s with rx := t.rx, ctl := t.ctl, rst := t.rst, arb := t.arb } := by
  rcases (State.take_some h).2 with ⟨-, -, rfl⟩ | ⟨b, bs, -, -, -, -, rfl | rfl⟩ | ⟨w, ws, -, -, -, rfl | rfl⟩ <;> rfl

/-- With only bytes at a ready `rx`, the first byte is taken. -/
theorem State.take_rx {s : State} {b : Byte} {bs : List Byte} (hr : s.rxReady = true) (hx : s.rx = b :: bs)
    (hc : s.ctl = []) : s.take = some (.rx b, { s with rx := bs }) := by
  obtain ⟨hh, hs⟩ : s.hold = false ∧ s.rst = false := by simpa [State.rxReady] using hr
  simp [State.take, hs, hh, hx, hc, State.takeRx]

/-- With a word at a ready `ctl` and no byte that can be taken, the word is taken. -/
theorem State.take_ctl {s : State} {w : Word} {ws : List Word} (hr : s.ctlReady = true) (hc : s.ctl = w :: ws)
    (hx : s.hold = true ∨ s.rx = []) : s.take = some (.ctl w, { s with ctl := ws }) := by
  have hs : s.rst = false := by simpa [State.ctlReady] using hr
  rcases hx with hh | hx
  · simp [State.take, hs, hh, State.takeCtl, hc]
  · simp [State.take, hs, hx, State.takeCtl, hc]

/-- With transfers at both ready ports, the free value chooses, and the choice is counted (R48). -/
theorem State.take_contested {s : State} {b : Byte} {bs : List Byte} {w : Word} {ws : List Word}
    (hr : s.rxReady = true) (hx : s.rx = b :: bs) (hc : s.ctl = w :: ws) :
    s.take = if Config.rxFirst s.arb then some (.rx b, { s with rx := bs, arb := s.arb + 1 })
      else some (.ctl w, { s with ctl := ws, arb := s.arb + 1 }) := by
  obtain ⟨hh, hs⟩ : s.hold = false ∧ s.rst = false := by simpa [State.rxReady] using hr
  simp [State.take, hs, hh, hx, hc, State.takeRx, State.countChoice]

/-- What a step does: it performs the operation taken, or changes nothing. -/
theorem step_cases (s : State) :
    (s.take = none ∧ step s = .next s) ∨ ∃ op t, s.take = some (op, t) ∧ step s = perform op t := by
  unfold step stepTaken
  cases h : s.take with
  | none => exact .inl ⟨rfl, rfl⟩
  | some p => exact .inr ⟨p.1, p.2, rfl, rfl⟩

end Sys2Proof.Machine
end

