-- ==== Sys2Proof/Laws/Exec.lean ====
section
/-! SUPPORT. What an instruction can do when it goes on: one equation for each `Rx`, and one inversion lemma for all commands. -/

namespace Sys2Proof.Machine

/-- Only the event log, the fault set and R32's mark differ. -/
def SameFsr (s t : State) : Prop :=
  t = { s with log := t.log, faults := t.faults, unwrittenRead := t.unwrittenRead }

/-- A `FREAD` that goes on changes no register, no byte and no flag (R140). -/
theorem State.fread_sameFsr {w : Word} {off : Half} {n : Nat} {signed : Bool} {s t : State}
    (h : s.fread w off n signed = .next t) : SameFsr s t := by
  rcases State.fread_next h with ⟨-, rfl⟩ | ⟨-, -, rfl⟩ | ⟨-, -, raw, -, rfl⟩ <;> rfl

/-- Everything a decoded command can do to the FSR when it goes on (R160 to R163, R140). -/
theorem exec_command_next {i : Instr} {s t : State} (hi : i.row.format = .ctl) (h : exec i s = .next t) :
    (i = .ack ∧ s.hold = true ∧ t = s.setHold false) ∨
    (i = .cancel ∧ t = (s.setSt .waitSync1).setHold false) ∨
    SameFsr s t := by
  cases i with
  | rxWaitSync1 b | rxWaitSync2 b | rxClass b | rxId b | rxLenLo b | rxLenHi b | rxPayload b | rxCkA b | rxCkB b =>
    cases hi
  | ack =>
    have h : Host.Outcome.next (if s.hold then s.setHold false else s.commandError 0x10000000#32) = .next t := h
    cases hh : s.hold <;> rw [hh] at h <;> cases h
    · exact .inr (.inr (by simp only [SameFsr]; rfl))
    · exact .inl ⟨rfl, rfl, rfl⟩
  | cancel => cases h; exact .inr (.inl ⟨rfl, rfl⟩)
  | freadU1 off | freadI1 off | freadU2 off | freadI2 off | freadU4 off | freadI4 off =>
    exact .inr (.inr (State.fread_sameFsr h))
  | status => cases h; exact .inr (.inr rfl)
  | illegal w => cases h; exact .inr (.inr rfl)

/-- A command word decodes to an instruction of the CTL format. -/
theorem decodeCtl_format (w : Word) : (decodeCtl w).row.format = .ctl := by
  unfold decodeCtl
  split
  · rename_i i hi
    unfold decodeFields decodeFread at hi
    repeat' split at hi
    all_goals cases hi
    all_goals rfl
  · rfl

/-- A quiet operation on `ctl` leaves the FSR's registers and buffer alone. -/
theorem perform_quiet_ctl {w : Word} {s t : State} (hq : (Operation.ctl w).quiet = true)
    (h : perform (.ctl w) s = .next t) : SameFsr s t := by
  have hq' : decodeCtl w ≠ .ack ∧ decodeCtl w ≠ .cancel := by simpa [Operation.quiet] using hq
  rcases exec_command_next (decodeCtl_format w) h with ⟨hi, -, -⟩ | ⟨hi, -⟩ | h
  · exact absurd hi hq'.1
  · exact absurd hi hq'.2
  · exact h

/-- `RX.PAYLOAD` where the index exists. -/
theorem execRxPayload_eq (b : Byte) {s : State} (h : s.cnt.toNat < payloadCap) :
    execRxPayload b s = .next
      ((((((s.noteRead .cnt).setBuf (s.buf.write s.cnt.toNat b)).ckUpd b).setCnt (s.cnt + 1#16)).noteRead .len).setSt
        (afterPayload (s.cnt + 1#16) s.len)) := by
  simp [execRxPayload, State.memWrite, h]

end Sys2Proof.Machine
end

