-- ==== Sys2Proof/Laws/PerInstr.lean ====
section
/-! SUPPORT. Statements about every instruction, one lemma per constructor of `Instr`. -/

namespace Sys2Proof.Laws

/-- The transfer that carries an instruction matches the instruction's row of the opcode table (match and mask). -/
def TableRow.Statement (i : Instr) : Prop :=
  match encode i with
  | .rx key => i.row.matchesKey key = true
  | .ctl w => i.row.matchesWord w = true

/-- The row's mask keeps the state code of an RX key and drops its byte (30_encoding.md R64). -/
theorem key_masked (st : St) (b : Byte) :
    (rxKey st b).setWidth 32 &&& 0xF00#32 = st.code.setWidth 32 <<< 8 := by
  revert b
  cases st <;> decide

/-- The row's mask keeps the upper half of a `FREAD` word and drops its offset (R67). -/
theorem word_masked (hi lo : Half) : (hi ++ lo : BitVec (16 + 16)) &&& 0xFFFF0000#32 = hi ++ 0x0000#16 := by
  have h : 0xFFFF0000#32 = (BitVec.allOnes 16 ++ 0#16 : BitVec (16 + 16)) := by decide
  rw [h]
  rw [BitVec.and_append, BitVec.and_allOnes, BitVec.and_zero]

/-- The upper half of a `FREAD` word (R65). -/
theorem freadWord_masked (sgn : BitVec 1) (wc : BitVec 2) (off : Half) :
    freadWord sgn wc off &&& 0xFFFF0000#32 =
      ((0x3#4 ++ 0#9 ++ sgn ++ wc : BitVec (4 + 9 + 1 + 2)) ++ 0x0000#16 : BitVec (16 + 16)) :=
  word_masked _ off

theorem TableRow.rxWaitSync1 (b : Byte) : TableRow.Statement (.rxWaitSync1 b) := by
  simp [TableRow.Statement, encode, Instr.row, OpRow.matchesKey, key_masked, St.code]

theorem TableRow.rxWaitSync2 (b : Byte) : TableRow.Statement (.rxWaitSync2 b) := by
  simp [TableRow.Statement, encode, Instr.row, OpRow.matchesKey, key_masked, St.code]

theorem TableRow.rxClass (b : Byte) : TableRow.Statement (.rxClass b) := by
  simp [TableRow.Statement, encode, Instr.row, OpRow.matchesKey, key_masked, St.code]

theorem TableRow.rxId (b : Byte) : TableRow.Statement (.rxId b) := by
  simp [TableRow.Statement, encode, Instr.row, OpRow.matchesKey, key_masked, St.code]

theorem TableRow.rxLenLo (b : Byte) : TableRow.Statement (.rxLenLo b) := by
  simp [TableRow.Statement, encode, Instr.row, OpRow.matchesKey, key_masked, St.code]

theorem TableRow.rxLenHi (b : Byte) : TableRow.Statement (.rxLenHi b) := by
  simp [TableRow.Statement, encode, Instr.row, OpRow.matchesKey, key_masked, St.code]

theorem TableRow.rxPayload (b : Byte) : TableRow.Statement (.rxPayload b) := by
  simp [TableRow.Statement, encode, Instr.row, OpRow.matchesKey, key_masked, St.code]

theorem TableRow.rxCkA (b : Byte) : TableRow.Statement (.rxCkA b) := by
  simp [TableRow.Statement, encode, Instr.row, OpRow.matchesKey, key_masked, St.code]

theorem TableRow.rxCkB (b : Byte) : TableRow.Statement (.rxCkB b) := by
  simp [TableRow.Statement, encode, Instr.row, OpRow.matchesKey, key_masked, St.code]

theorem TableRow.ack : TableRow.Statement .ack := by
  simp [TableRow.Statement, encode, Instr.row, OpRow.matchesWord]

theorem TableRow.cancel : TableRow.Statement .cancel := by
  simp [TableRow.Statement, encode, Instr.row, OpRow.matchesWord]

theorem TableRow.status : TableRow.Statement .status := by
  simp [TableRow.Statement, encode, Instr.row, OpRow.matchesWord]

theorem TableRow.freadU1 (off : Half) : TableRow.Statement (.freadU1 off) := by
  simp [TableRow.Statement, encode, Instr.row, OpRow.matchesWord, freadWord_masked]

theorem TableRow.freadI1 (off : Half) : TableRow.Statement (.freadI1 off) := by
  simp [TableRow.Statement, encode, Instr.row, OpRow.matchesWord, freadWord_masked]

theorem TableRow.freadU2 (off : Half) : TableRow.Statement (.freadU2 off) := by
  simp [TableRow.Statement, encode, Instr.row, OpRow.matchesWord, freadWord_masked]

theorem TableRow.freadI2 (off : Half) : TableRow.Statement (.freadI2 off) := by
  simp [TableRow.Statement, encode, Instr.row, OpRow.matchesWord, freadWord_masked]

theorem TableRow.freadU4 (off : Half) : TableRow.Statement (.freadU4 off) := by
  simp [TableRow.Statement, encode, Instr.row, OpRow.matchesWord, freadWord_masked]

theorem TableRow.freadI4 (off : Half) : TableRow.Statement (.freadI4 off) := by
  simp [TableRow.Statement, encode, Instr.row, OpRow.matchesWord, freadWord_masked]

theorem TableRow.illegal (w : Word) : TableRow.Statement (.illegal w) := by
  simp [TableRow.Statement, encode, Instr.row, OpRow.matchesWord]

end Sys2Proof.Laws
end

