-- ==== Sys2Proof/Tests/Slice0.lean ====
section
/-! SUPPORT. Tests of the decoder and of single steps against the vectors of 95_test_vectors.md, and for every statement with hypotheses a witness that meets them. -/

open Sys2Proof Sys2Proof.Machine Sys2Proof.Claims

namespace Sys2Proof.Tests

/-- A predicate on the next state of an outcome. -/
def nextHas (o : Host.Outcome State Fault Refusal) (p : State → Bool) : Bool :=
  match o with
  | .next t => p t
  | .fault _ => false
  | .refused _ => false

/-- The reset state moved to `st` with the accumulators at the given values, every register marked written. -/
def inState (st : St) (a b : Byte) : State :=
  { State.reset with st := st, ckA := a, ckB := b,
                     written := { cls := true, mid := true, len := true, cnt := true, ckA := true, ckB := true } }

/-- The held frame of 95_test_vectors.md section 3.2. -/
def held : State :=
  { inState .waitSync1 0x34#8 0xDF#8 with
    hold := true, cls := 0x10#8, mid := 0x20#8, len := 8#16, cnt := 8#16
    buf := [(0, 0x7F#8), (1, 0x80#8), (2, 0xFF#8), (3, 0x00#8), (4, 0x00#8), (5, 0x80#8), (6, 0xFF#8), (7, 0x7F#8)] }

/-- The last event of the log after an instruction, from a state with an empty log. -/
def emitted (i : Instr) (s : State) (e : Event) : Bool := nextHas (exec i s) fun t => t.log == [e]

/-! ## WellFormed and the decoder -/

/-- The one check of `Instr.wf` refuses a legal word under `illegal`. -/
theorem test_wf_refuses_legal_words :
    Instr.wf (.illegal 0x10000000#32) = false ∧ Instr.wf (.illegal 0x30060004#32) = false := by decide

/-- R163's example and `0x00000000`. -/
theorem test_wf_accepts_illegal_words :
    Instr.wf (.illegal 0x30030000#32) = true ∧ Instr.wf (.illegal 0#32) = true := by decide

/-- R64: keys written out from the state codes of R21. -/
theorem test_decode_rx_keys :
    decodeTableWord 16 0x0B5 = some (.rxWaitSync1 0xB5#8) ∧ decodeTableWord 16 0x162 = some (.rxWaitSync2 0x62#8) ∧
    decodeTableWord 16 0x201 = some (.rxClass 0x01#8) ∧ decodeTableWord 16 0x322 = some (.rxId 0x22#8) ∧
    decodeTableWord 16 0x414 = some (.rxLenLo 0x14#8) ∧ decodeTableWord 16 0x5FF = some (.rxLenHi 0xFF#8) := by decide

/-- R64, R69: the remaining keys, and the reserved codes. -/
theorem test_decode_rx_keys_end :
    decodeTableWord 16 0x603 = some (.rxPayload 0x03#8) ∧ decodeTableWord 16 0x73B = some (.rxCkA 0x3B#8) ∧
    decodeTableWord 16 0x8DE = some (.rxCkB 0xDE#8) ∧ decodeTableWord 16 0x900 = none ∧
    decodeTableWord 16 0xFFF = none ∧ decodeTableWord 16 0x1000 = none := by decide

/-- R67: the words of 95_test_vectors.md section 3.2. -/
theorem test_decode_fread_words :
    decodeTableWord 32 0x30000008 = some (.freadU1 8#16) ∧ decodeTableWord 32 0x30040007 = some (.freadI1 7#16) ∧
    decodeTableWord 32 0x3001FFFE = some (.freadU2 0xFFFE#16) ∧ decodeTableWord 32 0x30050006 = some (.freadI2 6#16) ∧
    decodeTableWord 32 0x3002FFFB = some (.freadU4 0xFFFB#16) ∧ decodeTableWord 32 0x30060004 = some (.freadI4 4#16) := by
  decide

/-- R66, R68 and the illegal words of section 3.3. -/
theorem test_decode_control_words :
    decodeTableWord 32 0x10000000 = some .ack ∧ decodeTableWord 32 0x20000000 = some .cancel ∧
    decodeTableWord 32 0x40000000 = some .status ∧ decodeTableWord 32 0x00000000 = some (.illegal 0#32) ∧
    decodeTableWord 32 0x10000001 = some (.illegal 0x10000001#32) ∧
    decodeTableWord 32 0x30030000 = some (.illegal 0x30030000#32) ∧
    decodeTableWord 32 0x30080000 = some (.illegal 0x30080000#32) ∧
    decodeTableWord 32 0x50000000 = some (.illegal 0x50000000#32) := by decide

/-! ## Checksum (section 2) -/

theorem test_ck_wraps : ck 0xFF#8 [0xFF#8] = (0xFE#8, 0xFD#8) ∧ ck 0x80#8 [0x80#8, 0#8, 0#8] = (0x00#8, 0x80#8) := by decide

theorem test_ck_frames :
    frameCk 0x99#8 0x99#8 [1#8, 2#8, 3#8] = (0x3B#8, 0xDE#8) ∧
    ck 0x05#8 [0x01#8, 0x02#8, 0x00#8, 0x06#8, 0x01#8] = (0x0F#8, 0x38#8) := by decide

/-! ## One step per state (section 3.1) -/

theorem test_waitSync1_b5 : nextHas (exec (.rxWaitSync1 0xB5#8) State.reset) (·.st == .waitSync2) = true := by decide

theorem test_waitSync2_b5_stays :
    nextHas (exec (.rxWaitSync2 0xB5#8) (inState .waitSync2 0#8 0#8)) (·.st == .waitSync2) = true := by decide

theorem test_class_seeds_both :
    nextHas (exec (.rxClass 0x01#8) (inState .cls 0x77#8 0x77#8))
      (fun t => t.st == .id && t.cls == 1#8 && t.ckA == 1#8 && t.ckB == 1#8) = true := by decide

theorem test_id_wraps :
    nextHas (exec (.rxId 0xFF#8) (inState .id 0xFF#8 0xFF#8))
      (fun t => t.st == .lenLo && t.ckA == 0xFE#8 && t.ckB == 0xFD#8) = true := by decide

theorem test_lenLo_clears_high_byte :
    nextHas (exec (.rxLenLo 0x14#8) { inState .lenLo 0x23#8 0x24#8 with len := 0xABCD#16 })
      (fun t => t.st == .lenHi && t.len == 0x0014#16 && t.ckA == 0x37#8 && t.ckB == 0x5B#8) = true := by decide

theorem test_lenHi_to_payload :
    nextHas (exec (.rxLenHi 0xFF#8) { inState .lenHi 0#8 0#8 with len := 0x00FF#16 })
      (fun t => t.st == .payload && t.len == 0xFFFF#16 && t.cnt == 0#16) = true := by decide

theorem test_lenHi_zero_to_ckA :
    nextHas (exec (.rxLenHi 0x00#8) (inState .lenHi 0#8 0#8)) (·.st == .ckA) = true := by decide

theorem test_payload_sync_value_is_data :
    nextHas (exec (.rxPayload 0xB5#8) { inState .payload 0#8 0#8 with len := 3#16 })
      (fun t => t.st == .payload && t.buf == [(0, 0xB5#8)] && t.cnt == 1#16) = true := by decide

theorem test_payload_last_byte :
    nextHas (exec (.rxPayload 0x03#8) { inState .payload 0x38#8 0xA3#8 with len := 3#16, cnt := 2#16 })
      (fun t => t.st == .ckA && t.buf == [(2, 3#8)] && t.cnt == 3#16 && t.ckA == 0x3B#8 && t.ckB == 0xDE#8) = true := by
  decide

theorem test_ckA_mismatch_not_rescanned :
    nextHas (exec (.rxCkA 0xB5#8) (inState .ckA 0x0E#8 0#8))
      (fun t => t.st == .waitSync1 && t.log == [⟨.ckaFail, 0x00000EB5#32⟩]) = true := by decide

theorem test_ckA_silent_without_diagnostics :
    nextHas (exec (.rxCkA 0x3C#8) { inState .ckA 0x3B#8 0#8 with cfg := { diagEvents := false } })
      (fun t => t.st == .waitSync1 && t.log == []) = true := by decide

theorem test_ckB_delivers :
    nextHas (exec (.rxCkB 0xDE#8) { inState .ckB 0x3B#8 0xDE#8 with cls := 0x99#8, mid := 0x99#8, len := 3#16 })
      (fun t => t.st == .waitSync1 && t.hold && t.log == [⟨.frame, 0x00039999#32⟩]) = true := by decide

theorem test_ckB_mismatch :
    nextHas (exec (.rxCkB 0x00#8) (inState .ckB 0#8 0x34#8))
      (fun t => !t.hold && t.log == [⟨.ckbFail, 0x00003400#32⟩]) = true := by decide

/-! ## Field decoder (section 3.2) -/

theorem test_freadU1 : emitted (.freadU1 1#16) held ⟨.field, 0x00000080#32⟩ = true ∧
    emitted (.freadU1 0xFFFF#16) held ⟨.fieldOob, 0x3000FFFF#32⟩ = true := by decide

theorem test_freadI1 : emitted (.freadI1 1#16) held ⟨.field, 0xFFFFFF80#32⟩ = true ∧
    emitted (.freadI1 7#16) held ⟨.field, 0x0000007F#32⟩ = true := by decide

theorem test_freadU2 : emitted (.freadU2 1#16) held ⟨.field, 0x0000FF80#32⟩ = true ∧
    emitted (.freadU2 7#16) held ⟨.fieldOob, 0x30010007#32⟩ = true := by decide

theorem test_freadI2 : emitted (.freadI2 0#16) held ⟨.field, 0xFFFF807F#32⟩ = true ∧
    emitted (.freadI2 2#16) held ⟨.field, 0x000000FF#32⟩ = true := by decide

theorem test_freadU4 : emitted (.freadU4 2#16) held ⟨.field, 0x800000FF#32⟩ = true ∧
    emitted (.freadU4 5#16) held ⟨.fieldOob, 0x30020005#32⟩ = true := by decide

theorem test_freadI4 : emitted (.freadI4 4#16) held ⟨.field, 0x7FFF8000#32⟩ = true ∧
    emitted (.freadI4 0#16) State.reset ⟨.cmdErr, 0x30060000#32⟩ = true := by decide

/-! ## Control (section 3.3) -/

theorem test_ack : nextHas (exec .ack held) (fun t => !t.hold && t.log == []) = true ∧
    nextHas (exec .ack State.reset) (fun t => t.log == [⟨.cmdErr, 0x10000000#32⟩] && t.faults.cmdErr) = true := by decide

theorem test_cancel : nextHas (exec .cancel (inState .payload 0#8 0#8)) (fun t => t.st == .waitSync1 && !t.hold) = true := by
  decide

theorem test_status : emitted .status (inState .ckA 0#8 0#8) ⟨.status, 0x00000007#32⟩ = true ∧
    emitted .status held ⟨.status, 0x00000010#32⟩ = true := by decide

theorem test_illegal : nextHas (exec (.illegal 0x30030000#32) State.reset)
    (fun t => t.log == [⟨.cmdErr, 0x30030000#32⟩] && t.faults == ⟨true, false⟩) = true := by decide

/-! ## Steps and the operation language -/

/-- R32: the first step that reads a register holding no value marks it, and goes on. -/
theorem test_unwritten_read_is_marked :
    nextHas (step (State.reset.withFetchWord 16 0x322)) (fun t => t.st == .lenLo && t.unwrittenRead) = true := by decide

theorem test_step_places_and_runs :
    nextHas (step (State.reset.withFetchWord 32 0x40000000)) (fun t => t.log == [⟨.status, 0#32⟩] && t.ctl == []) = true := by
  decide

/-- S1: the frame of class 0x99, id 0x99, payload [1, 2, 3] (R74). -/
theorem test_frame_line_expands :
    (AsmLine.frame 0x99#8 0x99#8 [1#8, 2#8, 3#8]).expand =
      (AsmLine.rx [0xB5#8, 0x62#8, 0x99#8, 0x99#8, 0x03#8, 0x00#8, 1#8, 2#8, 3#8, 0x3B#8, 0xDE#8]).expand := by decide

/-- R74: the repeated form is refused on `U2`. -/
theorem test_repeats_only_on_bytes :
    (AsmLine.fread .two false (some 4) 0).expand = none ∧
    (AsmLine.fread .one true (some 4) 3).expand = some [.ctl 0x30040003#32] := by decide

/-! ## Witnesses: for each statement with hypotheses, a state and operands that meet them -/

theorem witness_AssertedRst : State.reset.assertRst.rst = true := rfl

/-- The last index of the buffer. -/
theorem witness_PayloadStep : ∃ s : State, s.st = .payload ∧ s.cnt.toNat < 65535 ∧ s.cnt.toNat + 1 = s.len.toNat :=
  ⟨{ inState .payload 0#8 0#8 with len := 0xFFFF#16, cnt := 0xFFFE#16 }, by decide⟩

theorem witness_PayloadStopsAtMissingIndex : ∃ s : State, s.cnt = 0xFFFF#16 :=
  ⟨{ State.reset with cnt := 0xFFFF#16 }, rfl⟩

/-- The last legal offset of a four-byte read, and the first illegal one. -/
theorem witness_FreadGeneralRule : held.hold = true ∧ (4#16).toNat + Width.four.bytes ≤ held.len.toNat ∧
    bytesAt held (4#16).toNat [0x00#8, 0x80#8, 0xFF#8, 0x7F#8] ∧ held.len.toNat < (5#16).toNat + Width.four.bytes ∧
    State.reset.hold = false := by
  unfold bytesAt; decide

theorem witness_FreadU1Form : held.hold = true ∧ (7#16).toNat < held.len.toNat ∧ bytesAt held (7#16).toNat [0x7F#8] := by
  unfold bytesAt; decide

theorem witness_FreadI1Form : held.hold = true ∧ (0#16).toNat < held.len.toNat ∧ bytesAt held (0#16).toNat [0x7F#8] := by
  unfold bytesAt; decide

theorem witness_FreadU2Form : held.hold = true ∧ (6#16).toNat + 2 ≤ held.len.toNat ∧
    bytesAt held (6#16).toNat [0xFF#8, 0x7F#8] := by
  unfold bytesAt; decide

theorem witness_FreadI2Form : held.hold = true ∧ (1#16).toNat + 2 ≤ held.len.toNat ∧
    bytesAt held (1#16).toNat [0x80#8, 0xFF#8] := by
  unfold bytesAt; decide

theorem witness_FreadU4Form : held.hold = true ∧ (4#16).toNat + 4 ≤ held.len.toNat ∧
    bytesAt held (4#16).toNat [0x00#8, 0x80#8, 0xFF#8, 0x7F#8] := by
  unfold bytesAt; decide

theorem witness_FreadI4Form : held.hold = true ∧ (0#16).toNat + 4 ≤ held.len.toNat ∧
    bytesAt held (0#16).toNat [0x7F#8, 0x80#8, 0xFF#8, 0x00#8] := by
  unfold bytesAt; decide

/-- Only bytes 6 and 7 keep a value. -/
theorem witness_FreadSeesOnlyItsBytes : ∃ (m : Memory) (t : State),
    (∀ k, (6#16).toNat ≤ k → k < (6#16).toNat + Width.two.bytes → m.read k = held.buf.read k) ∧
    m.read 0 ≠ held.buf.read 0 ∧ exec (freadForm .two true 6#16) held = .next t := by
  refine ⟨[(6, 0xFF#8), (7, 0x7F#8)], _, fun k h₁ h₂ => ?_, by decide, rfl⟩
  obtain rfl | rfl : k = 6 ∨ k = 7 := by
    simp [Width.bytes] at h₁ h₂; omega
  · rfl
  · rfl

theorem witness_FreadAgreesWithByteReads : ∃ t, exec (freadForm .four true 4#16) held = .next t ∧
    t.log = held.log ++ [⟨.field, 0x7FFF8000#32⟩] := ⟨_, rfl, by decide⟩

/-- A `STATUS` between two reads of the same field. -/
theorem witness_HeldFieldReadsRepeat : ∃ (t u : State) (e : Event), held.hold = true ∧
    exec (freadForm .two true 0#16) held = .next t ∧ t.log = held.log ++ [e] ∧
    (∀ op ∈ [Operation.ctl 0x40000000#32], op.quiet = true) ∧ Run t [.ctl 0x40000000#32] u :=
  ⟨_, _, ⟨.field, 0xFFFF807F#32⟩, rfl, rfl, by decide, by decide, .cons rfl rfl (.nil _)⟩

/-- The second byte of the field holds no value. -/
theorem witness_UnwrittenFieldByteStops : ∃ s : State, s.hold = true ∧ (0#16).toNat + Width.two.bytes ≤ s.len.toNat ∧
    1 < Width.two.bytes ∧ (∀ j, j < 1 → (s.buf.read ((0#16).toNat + j)).isSome) ∧ s.buf.read ((0#16).toNat + 1) = none :=
  ⟨{ held with buf := [(0, 1#8)] }, by decide⟩

theorem witness_RawReadoutReturnsPayload : held.hold = true ∧
    [0x7F#8, 0x80#8, 0xFF#8, 0x00#8, 0x00#8, 0x80#8, 0xFF#8, 0x7F#8].length = held.len.toNat ∧
    holdsPayload held.buf [0x7F#8, 0x80#8, 0xFF#8, 0x00#8, 0x00#8, 0x80#8, 0xFF#8, 0x7F#8] := by
  unfold holdsPayload; decide

theorem witness_AckStep : held.hold = true ∧ State.reset.hold = false := by decide

theorem witness_StatusRegisterLayout : ∃ t, perform .rst held = .next t := ⟨_, rfl⟩

theorem witness_DecodeOfEncode : Instr.wf (.illegal 0x30070000#32) = true ∧ Instr.wf (.freadI4 0xFFFF#16) = true := by decide

theorem witness_EncodeOfDecode : decode (.ctl 0x3006FFFF#32) = .ok (.freadI4 0xFFFF#16) := by decide

theorem witness_CommandDecodingIsTotal : 0x9#4 ≤ (0x9B5#12).extractLsb' 8 4 := by decide

theorem witness_OpcodeTableDecidesDecoding :
    (Instr.freadU2 0#16).row.format = .ctl ∧ (Instr.freadU2 0#16).row.mnemonic ≠ "ILLEGAL" ∧
    (Instr.rxCkB 0#8).row.format = .rx := by decide

/-- The largest offset with a word, and the smallest without. -/
theorem witness_FieldSpecMapsToOneWord :
    (0xFFFF#32).toNat ≤ 0xFFFF ∧ 0xFFFF < (0x10000#32).toNat := by decide

/-- One byte or one word offered, in a state ready to accept it. -/
theorem witness_StepRunsTheDecodedInstruction :
    (∃ s : State, s.rst = false ∧ s.hold = false ∧ s.rx = [0xB5#8] ∧ s.ctl = [] ∧
      decode (.rx (s.st.code ++ 0xB5#8 : BitVec (4 + 8))) = .ok (.rxWaitSync1 0xB5#8)) ∧
    (∃ s : State, s.rst = false ∧ s.hold = true ∧ s.rx = [0xB5#8] ∧ s.ctl = [0x10000000#32] ∧
      decode (.ctl 0x10000000#32) = .ok .ack) ∧
    (∃ s : State, s.rst = false ∧ s.rx = [] ∧ s.ctl = [0x40000000#32]) :=
  ⟨⟨State.reset.offerRx [0xB5#8], by decide⟩, ⟨(held.offerRx [0xB5#8]).offerCtl [0x10000000#32], by decide⟩,
   ⟨State.reset.offerCtl [0x40000000#32], by decide⟩⟩

theorem witness_ContestedStepTakesOneTransfer : ∃ s : State, s.rst = false ∧ s.hold = false ∧
    s.rx = [0xB5#8] ∧ s.ctl = [0x40000000#32] :=
  ⟨(State.reset.offerRx [0xB5#8]).offerCtl [0x40000000#32], by decide⟩

theorem witness_RxAcceptsOnlyWhenReady :
    (∃ s t : State, s.hold = true ∧ s.rx ≠ [] ∧ step s = .next t ∧ t.hold = false) ∧
    (∃ s t : State, s.rst = true ∧ s.rx ≠ [] ∧ step s = .next t) ∧
    (∃ s : State, s.hold = false ∧ s.rst = false ∧ s.rx = [0xB5#8] ∧ s.ctl = []) :=
  ⟨⟨(held.offerRx [0xB5#8]).offerCtl [0x10000000#32], _, rfl, by decide, rfl, rfl⟩,
   ⟨(held.offerRx [0xB5#8]).assertRst, _, rfl, by decide, rfl⟩, ⟨State.reset.offerRx [0xB5#8], by decide⟩⟩

theorem witness_ParkedWithoutTransfers :
    (State.reset.rst = false ∧ State.reset.ctl = [] ∧ State.reset.rx = []) ∧
    ((held.offerRx [0xB5#8]).rst = false ∧ (held.offerRx [0xB5#8]).ctl = [] ∧ (held.offerRx [0xB5#8]).hold = true) := by
  decide

/-- The reset state for ever, the host offering one garbage byte before every step: each step takes it. -/
theorem witness_WeakFairnessServesBothPorts :
    Trace (fun _ => State.reset) (fun _ => ⟨[0x00#8], [], false⟩) ∧
    WeaklyFair (fun _ => State.reset) (fun _ => ⟨[0x00#8], [], false⟩) ∧
    (∀ m : Nat, 0 ≤ m → (State.reset.offer ⟨[0x00#8], [], false⟩).rst = false) ∧ State.reset.hold = false :=
  ⟨fun _ => rfl, ⟨fun n _ => ⟨n, le_refl n, rfl⟩, fun n h => absurd rfl (h n (le_refl n)).2⟩, fun _ _ => rfl, rfl⟩

/-- A payload byte, an `Rst` and a delivering byte are performed; the first changes the buffer, the second empties it. -/
theorem witness_operations_are_performed :
    (∃ t, perform (.rx 7#8) { inState .payload 0#8 0#8 with len := 3#16 } = .next t ∧ t.buf.read 0 ≠ none) ∧
    (∃ t, perform .rst held = .next t ∧ t.buf.read 0 ≠ held.buf.read 0) ∧
    (∃ t, perform (.rx 9#8) (inState .ckB 0#8 9#8) = .next t ∧ t.hold = true) :=
  ⟨⟨_, rfl, by decide⟩, ⟨_, rfl, by decide⟩, ⟨_, rfl, rfl⟩⟩

/-- Both builds, a failing checksum byte in each. -/
theorem witness_DiagnosticsChangeOnlyTheLog :
    (∃ t, perform (.rx 1#8) (inState .ckA 0#8 0#8) = .next t ∧ (inState .ckA 0#8 0#8).cfg.diagEvents = true) ∧
    (∃ t, perform (.ctl 0x40000000#32) { held with cfg := { diagEvents := false } } = .next t ∧
      ∃ e : Event, t.log = held.log ++ [e]) :=
  ⟨⟨_, rfl, rfl⟩, ⟨_, rfl, _, rfl⟩⟩

theorem witness_FaultChangesNoHardwareState : misuse .cmdErr (.ctl 0#32) State.reset ∧
    misuse .cmdErr (.ctl 0x10000000#32) State.reset ∧ misuse .fieldOob (.ctl 0x30020005#32) held :=
  ⟨⟨_, rfl, .inl (by decide)⟩, ⟨_, rfl, .inr ⟨rfl, .inl (by decide)⟩⟩,
   ⟨_, rfl, rfl, .four, false, 5#16, by decide, by decide⟩⟩

theorem witness_BookkeepingFollowsTheRegisterTable : ∃ t, exec (.rxId 0x22#8) State.reset = .next t := ⟨_, rfl⟩

theorem witness_HandOffsDoNotNest : ∃ t, held.hold = true ∧
    (∀ op ∈ [Operation.ctl 0x40000000#32, .ctl 0x30000000#32], op.quiet = true) ∧
    Run held [.ctl 0x40000000#32, .ctl 0x30000000#32] t :=
  ⟨_, rfl, by decide, .cons rfl rfl (.cons rfl rfl (.nil _))⟩

/-- The invariant holds of a held frame of eight bytes. -/
theorem witness_held_Inv : Inv held where
  bufWf := by decide
  classWritten := by decide
  midWritten := by decide
  lenWritten := by decide
  cntWritten := by decide
  cntBelowLen := by decide
  payloadSoFar := by decide
  payloadWhole := fun _ => by decide
  heldAtRest := by decide

theorem witness_StepKeepsTheInvariant : ∃ t, step (held.offerCtl [0x10000000#32]) = .next t ∧ t.hold = false := ⟨_, rfl, rfl⟩

theorem witness_NoStateIsFatal : State.reset.hold = false := rfl

theorem witness_RunsReadOnlyWrittenData : ∃ t, Run (State.resetWith Config.default) [.rx 0xB5#8, .ctl 0x40000000#32, .rst] t :=
  ⟨_, .cons rfl rfl (.cons rfl rfl (.cons rfl rfl (.nil _)))⟩

/-- In `LEN_LO`, after class 0x01 and id 0x22 (the example of R106). -/
theorem witness_AccumulatorsAreTheChecksum : ∃ s t : State, s.st = .lenLo ∧ AccInv s [0x01#8, 0x22#8] ∧
    perform (.rx 0x14#8) s = .next t := by
  refine ⟨{ inState .lenLo 0x23#8 0x24#8 with cls := 0x01#8, mid := 0x22#8 }, _, rfl, ?_, rfl⟩
  exact ⟨fun _ => ⟨[0x22#8], by decide, by decide⟩, nofun, fun _ => by decide, nofun, nofun, fun h => absurd h (by decide)⟩

/-- A zero-length frame (S5) with a `STATUS` inside it. -/
def statusInsideFrame : List Operation :=
  [.rx 0xB5#8, .rx 0x62#8, .rx 0x0A#8, .ctl 0x40000000#32, .rx 0x04#8, .rx 0x00#8, .rx 0x00#8, .rx 0x0E#8, .rx 0x34#8]

theorem witness_ValidFramesAreDelivered : State.reset.hold = false ∧ State.reset.st = .waitSync1 ∧
    (∀ op ∈ statusInsideFrame, op.quiet = true) ∧ rxBytes statusInsideFrame = frameBytes 0x0A#8 0x04#8 [] := by decide

theorem witness_changed_checksum_bytes :
    rxBytes ((wireBytes 0x0A#8 0x04#8 [] 0x0F#8 0x34#8).map .rx) = wireBytes 0x0A#8 0x04#8 [] 0x0F#8 0x34#8 ∧
    0x0F#8 ≠ (frameCk 0x0A#8 0x04#8 []).1 ∧ 0x34#8 = (frameCk 0x0A#8 0x04#8 []).2 ∧
    0x0E#8 = (frameCk 0x0A#8 0x04#8 []).1 ∧ 0x00#8 ≠ (frameCk 0x0A#8 0x04#8 []).2 := by decide

/-- The last payload byte changed from 3 to 4. -/
theorem witness_OneChangedByteIsDetected :
    ([0x99#8, 0x99#8, 1#8, 2#8, 3#8][4]? ≠ none) ∧ ([0x99#8, 0x99#8, 1#8, 2#8, 3#8][4]? ≠ some 4#8) ∧
    [0x99#8, 0x99#8, 1#8, 2#8, 4#8] = [0x99#8, 0x99#8, 1#8, 2#8, 3#8].set 4 4#8 ∧
    rxBytes ((0xB5#8 :: 0x62#8 :: 0x99#8 :: coveredTail 0x99#8 [1#8, 2#8, 4#8]).map .rx) =
      0xB5#8 :: 0x62#8 :: 0x99#8 :: coveredTail 0x99#8 [1#8, 2#8, 4#8] ∧
    rxBytes ([0x3B#8, 0xDE#8].map .rx) = [(frameCk 0x99#8 0x99#8 [1#8, 2#8, 3#8]).1, (frameCk 0x99#8 0x99#8 [1#8, 2#8, 3#8]).2] := by
  decide

/-- A repeated-byte field, and a signed 16-bit field of value -5 at an odd offset. -/
def sampleFields : List (FieldSpec × Int) :=
  [({ offset := 0#32, width := .four, signed := false, repeated := true, name := "flags" }, 7),
   ({ offset := 1#32, width := .two, signed := true, repeated := false, name := "bias" }, -5)]

theorem witness_EncodedFieldsRoundTrip :
    List.lookup (0x01#8, 0x22#8) [((0x01#8, 0x22#8), sampleFields.map (·.1))] = some (sampleFields.map (·.1)) ∧
    ∀ fv ∈ sampleFields, fv.1.offset.toNat + fv.1.readWidth.bytes ≤ [7#8, 0xFB#8, 0xFF#8].length ∧ fits fv.1 fv.2 ∧
      storedAt [7#8, 0xFB#8, 0xFF#8] fv.1 fv.2 := by
  unfold fits storedAt; decide

end Sys2Proof.Tests
end

/-! The family 00_scope.md: a step runs the instruction its transfer decodes to (R9, R64, R164), and what the build parameter `DIAG_EVENTS` may change (R7). -/

namespace Sys2Proof.Machine

/-! ### Steps and transfers -/

/-- A step performs the operation it takes. -/
theorem step_of_take {s t : State} {op : Operation} (h : s.take = some (op, t)) : step s = perform op t := by
  simp [step, stepTaken, h]

/-- The key of a state and a byte decodes to that state's rule with that byte (R64). -/
@[simp] theorem decode_rxKey (st : St) (b : Byte) : decode (.rx (rxKey st b)) = .ok (decodeRx st b) := by
  simp [decode, decodeKey]

/-- Settles O38: the transfer taken is the one offered, and performing it executes what it decodes to. -/
theorem stepRunsTheDecodedInstruction : Obligations.StepRunsTheDecodedInstruction := by
  unfold Obligations.StepRunsTheDecodedInstruction
  refine ⟨fun s b bs i hrst hhold hrx hctl hi => ?_, fun s w ws i hrst hrx hctl hi => ?_⟩
  · have hdec : decodeRx s.st b = i := Except.ok.inj ((decode_rxKey s.st b).symm.trans hi)
    have htake := State.take_rx (by simp [State.rxReady, hhold, hrst]) hrx hctl
    rw [step_of_take htake, ← hdec]
    rfl
  · have hdec : decodeCtl w = i := Except.ok.inj hi
    have htake := State.take_ctl (by simp [State.ctlReady, hrst]) hctl hrx
    rw [step_of_take htake, ← hdec]
    rfl

/-! ### The build parameter -/

/-- The same state in another build (R7). -/
def State.withConfig (c : Config) (s : State) : State := { s with cfg := c }

@[simp] theorem State.withConfig_log (c : Config) (s : State) : (s.withConfig c).log = s.log := rfl
@[simp] theorem State.withConfig_cfg (c : Config) (s : State) : (s.withConfig c).cfg = c := rfl
@[simp] theorem State.withConfig_cnt (c : Config) (s : State) : (s.withConfig c).cnt = s.cnt := rfl
@[simp] theorem State.withConfig_self (s : State) : s.withConfig s.cfg = s := rfl

/-- The two diagnostic events (R7, R201). -/
def EvCode.diagnostic (k : EvCode) : Bool := k == .ckaFail || k == .ckbFail

/-- The log without diagnostic events does not show one more of them. -/
theorem undiagnosed_append_diagnostic (l : List Event) {e : Event} (h : e.code.diagnostic = true) :
    Claims.undiagnosed (l ++ [e]) = Claims.undiagnosed l := by
  have hk : e.code = .ckaFail ∨ e.code = .ckbFail := by simpa [EvCode.diagnostic] using h
  rcases hk with hk | hk <;> simp [Claims.undiagnosed, hk]

/-- A gated diagnostic event is invisible in the log without diagnostic events. -/
theorem State.undiagnosed_emitDiag (s : State) {e : Event} (h : e.code.diagnostic = true) :
    Claims.undiagnosed (s.emitDiag e).log = Claims.undiagnosed s.log := by
  rw [State.emitDiag_log]
  split
  · exact undiagnosed_append_diagnostic s.log h
  · rfl

/-- A gated diagnostic event makes two builds differ in the log alone. -/
theorem State.emitDiag_withConfig (s : State) (c c' : Config) (e : Event) :
    (s.withConfig c).emitDiag e =
      { (s.withConfig c').emitDiag e with cfg := c, log := ((s.withConfig c).emitDiag e).log } := by
  unfold State.emitDiag
  split <;> split <;> rfl

/-! ### The checksum comparisons -/

/-- R110, the byte matches. -/
theorem execRxCkA_match (s : State) : execRxCkA s.ckA s = .next ((s.noteRead .ckA).setSt .ckB) := by
  simp [execRxCkA]

/-- R110, the byte differs: the state machine resets and the diagnostic event is due. -/
theorem execRxCkA_mismatch {b : Byte} {s : State} (h : b ≠ s.ckA) :
    execRxCkA b s = .next (((s.noteRead .ckA).setSt .waitSync1).emitDiag (ckaFailEvent s.ckA b)) := by
  simp [execRxCkA, h]

/-- R111, the byte matches: the frame is delivered. -/
theorem execRxCkB_match (s : State) : execRxCkB s.ckB s = .next
    (((((((s.setSt .waitSync1).noteRead .ckB).noteRead .len).noteRead .mid).noteRead .cls).setHold true).emit
      (frameEvent s.len s.mid s.cls)) := by
  simp [execRxCkB]

/-- R111, the byte differs: the state machine resets and the diagnostic event is due. -/
theorem execRxCkB_mismatch {b : Byte} {s : State} (h : b ≠ s.ckB) :
    execRxCkB b s = .next (((s.setSt .waitSync1).noteRead .ckB).emitDiag (ckbFailEvent s.ckB b)) := by
  simp [execRxCkB, h]

/-- A checksum failure, with the diagnostic event that reports it in a build with `DIAG_EVENTS` (R110, R111). -/
inductive ChecksumFailure (s : State) : Operation → Event → Prop where
  | ckA {b : Byte} : s.st = .ckA → b ≠ s.ckA → ChecksumFailure s (.rx b) (ckaFailEvent s.ckA b)
  | ckB {b : Byte} : s.st = .ckB → b ≠ s.ckB → ChecksumFailure s (.rx b) (ckbFailEvent s.ckB b)

/-- A checksum failure is reported by one of the two diagnostic events. -/
theorem ChecksumFailure.diagnostic {s : State} {op : Operation} {e : Event} (h : ChecksumFailure s op e) :
    e.code.diagnostic = true := by
  cases h <;> rfl

/-- An `Rx` executes the rule of the current state (R64). -/
theorem perform_rx {s : State} {st : St} (b : Byte) (h : s.st = st) : perform (.rx b) s = exec (decodeRx st b) s := by
  subst h; rfl

/-- A checksum failure goes on in every build, and its gated event is all in which the builds can differ. -/
theorem perform_checksumFailure {s : State} {op : Operation} {e : Event} (h : ChecksumFailure s op e) :
    ∃ u : State, u.log = s.log ∧ ∀ c, perform op (s.withConfig c) = .next ((u.withConfig c).emitDiag e) := by
  cases h with
  | ckA hst hb =>
    exact ⟨(s.noteRead .ckA).setSt .waitSync1, rfl, fun c =>
      (perform_rx (s := s.withConfig c) _ hst).trans (execRxCkA_mismatch (s := s.withConfig c) hb)⟩
  | ckB hst hb =>
    exact ⟨(s.setSt .waitSync1).noteRead .ckB, rfl, fun c =>
      (perform_rx (s := s.withConfig c) _ hst).trans (execRxCkB_mismatch (s := s.withConfig c) hb)⟩

/-! ### Everything but a checksum failure -/

/-- From `s`, `f` goes on to `t` alike in every build, and emits no diagnostic event. -/
structure SameInEveryBuild (f : State → Host.Outcome State Fault Refusal) (s t : State) : Prop where
  next : ∀ c, f (s.withConfig c) = .next (t.withConfig c)
  log : t.log = s.log ∨ ∃ e : Event, t.log = s.log ++ [e] ∧ e.code.diagnostic = false

/-- A `FREAD` does not depend on the build. -/
theorem State.fread_sameInEveryBuild {w : Word} {off : Half} {n : Nat} {signed : Bool} {s t : State}
    (h : s.fread w off n signed = .next t) : SameInEveryBuild (State.fread w off n signed) s t := by
  rcases State.fread_next h with ⟨hh, rfl⟩ | ⟨hh, ho, rfl⟩ | ⟨hh, ho, raw, hr, rfl⟩
  · exact ⟨fun c => State.fread_noFrame (s := s.withConfig c) hh, .inr ⟨_, rfl, rfl⟩⟩
  · exact ⟨fun c => State.fread_outside (s := s.withConfig c) hh ho, .inr ⟨_, rfl, rfl⟩⟩
  · have hr' (c : Config) : (s.withConfig c).memRead off.toNat n = .ok raw := by
      rw [← hr]; exact State.memRead_congr n fun _ _ _ => rfl
    exact ⟨fun c => State.fread_inside (s := s.withConfig c) hh ho (hr' c), .inr ⟨_, rfl, rfl⟩⟩

/-- `ACK` of a held frame (R160). -/
theorem execAck_held {s : State} (h : s.hold = true) : execAck s = .next (s.setHold false) := by
  simp [execAck, h]

/-- `ACK` with no held frame (R160). -/
theorem execAck_noFrame {s : State} (h : s.hold = false) : execAck s = .next (s.commandError 0x10000000#32) := by
  simp [execAck, h]

/-- `ACK` does not depend on the build. -/
theorem execAck_sameInEveryBuild {s t : State} (h : execAck s = .next t) : SameInEveryBuild execAck s t := by
  cases hh : s.hold with
  | true =>
    rw [execAck_held hh] at h; cases h
    exact ⟨fun c => execAck_held (s := s.withConfig c) hh, .inl rfl⟩
  | false =>
    rw [execAck_noFrame hh] at h; cases h
    exact ⟨fun c => execAck_noFrame (s := s.withConfig c) hh, .inr ⟨_, rfl, rfl⟩⟩

/-- `RX.PAYLOAD` does not depend on the build. -/
theorem execRxPayload_sameInEveryBuild {b : Byte} {s t : State} (h : execRxPayload b s = .next t) :
    SameInEveryBuild (execRxPayload b) s t := by
  by_cases hc : s.cnt.toNat < payloadCap
  · rw [execRxPayload_eq b hc] at h; cases h
    refine ⟨fun c => ?_, .inl (by simp)⟩
    rw [execRxPayload_eq b (by simpa using hc)]
    rfl
  · simp [execRxPayload, State.memWrite, hc] at h

/-- An instruction whose checksum comparison, if it makes one, succeeds does not depend on the build. -/
theorem exec_sameInEveryBuild {i : Instr} {s t : State} (hA : ∀ b, i = .rxCkA b → b = s.ckA)
    (hB : ∀ b, i = .rxCkB b → b = s.ckB) (h : exec i s = .next t) : SameInEveryBuild (exec i) s t := by
  cases i with
  | rxWaitSync1 b | rxWaitSync2 b | rxClass b | rxId b | rxLenLo b | rxLenHi b | cancel =>
    cases h; exact ⟨fun _ => rfl, .inl (by simp)⟩
  | rxPayload b => exact execRxPayload_sameInEveryBuild h
  | rxCkA b =>
    obtain rfl := hA b rfl
    cases (execRxCkA_match s).symm.trans h
    exact ⟨fun c => execRxCkA_match (s.withConfig c), .inl rfl⟩
  | rxCkB b =>
    obtain rfl := hB b rfl
    cases (execRxCkB_match s).symm.trans h
    exact ⟨fun c => execRxCkB_match (s.withConfig c), .inr ⟨_, rfl, rfl⟩⟩
  | ack => exact execAck_sameInEveryBuild h
  | freadU1 off | freadI1 off | freadU2 off | freadI2 off | freadU4 off | freadI4 off =>
    exact State.fread_sameInEveryBuild h
  | status | illegal w => cases h; exact ⟨fun _ => rfl, .inr ⟨_, rfl, rfl⟩⟩

/-- An `Rx` makes the first checksum comparison in `CK_A` only (R64). -/
theorem decodeRx_eq_rxCkA {st : St} {b b' : Byte} (h : decodeRx st b = .rxCkA b') : st = .ckA ∧ b = b' := by
  cases st <;> cases h
  exact ⟨rfl, rfl⟩

/-- An `Rx` makes the second checksum comparison in `CK_B` only (R64). -/
theorem decodeRx_eq_rxCkB {st : St} {b b' : Byte} (h : decodeRx st b = .rxCkB b') : st = .ckB ∧ b = b' := by
  cases st <;> cases h
  exact ⟨rfl, rfl⟩

/-- An operation that is no checksum failure does not depend on the build. -/
theorem perform_sameInEveryBuild {op : Operation} {s t : State} (hno : ∀ e, ¬ ChecksumFailure s op e)
    (h : perform op s = .next t) : SameInEveryBuild (perform op) s t := by
  cases op with
  | rst => cases h; exact ⟨fun _ => rfl, .inl rfl⟩
  | rx b =>
    have hexec : SameInEveryBuild (exec (decodeRx s.st b)) s t := by
      refine exec_sameInEveryBuild (fun b' hi => ?_) (fun b' hi => ?_) h
      · obtain ⟨hst, rfl⟩ := decodeRx_eq_rxCkA hi
        exact not_not.1 fun hb => hno _ (.ckA hst hb)
      · obtain ⟨hst, rfl⟩ := decodeRx_eq_rxCkB hi
        exact not_not.1 fun hb => hno _ (.ckB hst hb)
    exact ⟨hexec.next, hexec.log⟩
  | ctl w =>
    have hformat := decodeCtl_format w
    exact exec_sameInEveryBuild (fun b hi => by simp [hi, Instr.row] at hformat)
      (fun b hi => by simp [hi, Instr.row] at hformat) h

/-! ### What `DIAG_EVENTS` changes -/

/-- The event log after a checksum failure. -/
theorem perform_checksumFailure_log {s t : State} {op : Operation} {e : Event} (hf : ChecksumFailure s op e)
    (h : perform op s = .next t) : t.log = if s.cfg.diagEvents then s.log ++ [e] else s.log := by
  obtain ⟨u, hlog, hnext⟩ := perform_checksumFailure hf
  cases h.symm.trans (hnext s.cfg)
  simp [hlog]

/-- An operation that goes on in one build goes on in every other, to the same state but for diagnostic events. -/
theorem perform_withConfig {op : Operation} {s t : State} (c : Config) (h : perform op s = .next t) :
    ∃ t', perform op (s.withConfig c) = .next t' ∧ t' = { t with cfg := c, log := t'.log } ∧
      Claims.undiagnosed t'.log = Claims.undiagnosed t.log := by
  by_cases hf : ∃ e, ChecksumFailure s op e
  · obtain ⟨e, he⟩ := hf
    obtain ⟨u, -, hnext⟩ := perform_checksumFailure he
    cases h.symm.trans (hnext s.cfg)
    refine ⟨_, hnext c, u.emitDiag_withConfig c s.cfg e, ?_⟩
    simp only [State.undiagnosed_emitDiag _ he.diagnostic, State.withConfig_log]
  · exact ⟨_, (perform_sameInEveryBuild (not_exists.1 hf) h).next c, rfl, rfl⟩

/-- Without `DIAG_EVENTS` no operation emits a diagnostic event. -/
theorem perform_silent {op : Operation} {s t : State} {e : Event} (hd : s.cfg.diagEvents = false)
    (h : perform op s = .next t) (he : t.log = s.log ++ [e]) : e.code.diagnostic = false := by
  by_cases hf : ∃ e', ChecksumFailure s op e'
  · obtain ⟨e', hf⟩ := hf
    simp [perform_checksumFailure_log hf h, hd] at he
  · rcases (perform_sameInEveryBuild (not_exists.1 hf) h).log with hl | ⟨e', hl, hk⟩
    · simp [hl] at he
    · obtain rfl : e' = e := by simpa [hl] using he
      exact hk

/-- Settles O49: the builds differ in the gated event of a checksum failure, and in nothing else. -/
theorem diagnosticsChangeOnlyTheLog : Obligations.DiagnosticsChangeOnlyTheLog := by
  unfold Obligations.DiagnosticsChangeOnlyTheLog
  intro op s t c h
  refine ⟨perform_withConfig c h, fun hd e he => ?_, fun hd b hop => ⟨fun hst hb => ?_, fun hst hb => ?_⟩⟩
  · simpa [EvCode.diagnostic] using perform_silent hd h he
  · subst hop
    exact ⟨_, by simpa [hd] using perform_checksumFailure_log (.ckA hst hb) h, rfl⟩
  · subst hop
    exact ⟨_, by simpa [hd] using perform_checksumFailure_log (.ckB hst hb) h, rfl⟩

end Sys2Proof.Machine

/-! The family 10_state.md: what R32 says of registers and bytes that hold no value, the values after reset (R33), the STATUS view (R29), the writers of `hold` (R22), and the invariant of the FSR. -/

namespace Sys2Proof.Machine

/-! ### Field reads of bytes that hold no value -/

/-- Every index below a 16-bit length exists (R40). -/
theorem toNat_le_payloadCap (v : Half) : v.toNat ≤ payloadCap := by
  have := v.isLt
  unfold payloadCap
  omega

/-- A little-endian read stops at the first of its bytes that holds no value (R32). -/
theorem State.memRead_unwritten {s : State} (n : Nat) : ∀ {off k : Nat}, off + n ≤ payloadCap → k < n →
    (∀ j, j < k → (s.buf.read (off + j)).isSome) → s.buf.read (off + k) = none →
    s.memRead off n = .error (.unwrittenByte (off + k)) := by
  induction n with
  | zero => intro off k _ hk; omega
  | succ n ih =>
    intro off k hcap hk hbefore hnone
    cases k with
    | zero =>
      have hoff : off < payloadCap := by omega
      have hnone : s.buf.read off = none := hnone
      simp [State.memRead, State.readByte, hoff, hnone]
    | succ k =>
      obtain ⟨v, hv⟩ := Option.isSome_iff_exists.1 (hbefore 0 (by omega))
      have hbyte : s.readByte off = .ok v := State.readByte_eq_ok.2 ⟨by omega, hv⟩
      have hshift (j : Nat) : off + 1 + j = off + (j + 1) := by omega
      have hrest : s.memRead (off + 1) n = .error (.unwrittenByte (off + 1 + k)) :=
        ih (by omega) (by omega) (fun j hj => by rw [hshift]; exact hbefore (j + 1) (by omega))
          (by rw [hshift]; exact hnone)
      simp [State.memRead, hbyte, hrest, hshift]

/-- `FREAD` in bounds stops where the read of its bytes stops (R32, R140). -/
theorem State.fread_fault {w : Word} {off : Half} {n : Nat} {signed : Bool} {s : State} {f : Fault}
    (hh : s.hold = true) (ho : off.toNat + n ≤ s.len.toNat) (hf : s.memRead off.toNat n = .error f) :
    s.fread w off n signed = .fault f := by
  have hmark : (s.noteRead .len).memRead off.toNat n = .error f := by
    rw [← hf]; exact State.memRead_congr n fun _ _ _ => rfl
  simp [State.fread, hh, fieldOutside, Nat.not_lt.2 ho, hmark]

/-- Each `FREAD` form is the general rule at its width and signedness (R142 to R147). -/
theorem exec_freadForm (width : Width) (signed : Bool) (off : Half) (s : State) :
    exec (Claims.freadForm width signed off) s =
      s.fread (freadWord (signBit signed) width.code off) off width.bytes signed := by
  cases width <;> cases signed <;> rfl

/-- Settles O25: the read of the field's bytes stops at the first that holds no value, and the `FREAD` with it. -/
theorem unwrittenFieldByteStops : Obligations.UnwrittenFieldByteStops := by
  unfold Obligations.UnwrittenFieldByteStops
  intro width signed off s k hhold hbounds hk hbefore hnone
  rw [exec_freadForm]
  exact State.fread_fault hhold hbounds
    (State.memRead_unwritten width.bytes (hbounds.trans (toNat_le_payloadCap s.len)) hk hbefore hnone)

/-! ### What an accepted byte can do -/

/-- Everything `RX.PAYLOAD` can do when it goes on (R109). -/
theorem execRxPayload_next {b : Byte} {s t : State} (h : execRxPayload b s = .next t) :
    s.cnt.toNat < payloadCap ∧
    t = ((((((s.noteRead .cnt).setBuf (s.buf.write s.cnt.toNat b)).ckUpd b).setCnt (s.cnt + 1#16)).noteRead
      .len).setSt (afterPayload (s.cnt + 1#16) s.len)) := by
  by_cases hc : s.cnt.toNat < payloadCap
  · rw [execRxPayload_eq b hc] at h
    exact ⟨hc, (Host.Outcome.next.inj h).symm⟩
  · simp [execRxPayload, State.memWrite, hc] at h

/-- Everything `RX.CK_A` can do (R110). -/
theorem execRxCkA_next {b : Byte} {s t : State} (h : execRxCkA b s = .next t) :
    (b = s.ckA ∧ t = (s.noteRead .ckA).setSt .ckB) ∨
    (b ≠ s.ckA ∧ t = ((s.noteRead .ckA).setSt .waitSync1).emitDiag (ckaFailEvent s.ckA b)) := by
  by_cases hb : b = s.ckA
  · subst hb; cases (execRxCkA_match s).symm.trans h; exact .inl ⟨rfl, rfl⟩
  · cases (execRxCkA_mismatch hb).symm.trans h; exact .inr ⟨hb, rfl⟩

/-- Everything `RX.CK_B` can do (R111). -/
theorem execRxCkB_next {b : Byte} {s t : State} (h : execRxCkB b s = .next t) :
    (b = s.ckB ∧ t = ((((((s.setSt .waitSync1).noteRead .ckB).noteRead .len).noteRead .mid).noteRead .cls).setHold
      true).emit (frameEvent s.len s.mid s.cls)) ∨
    (b ≠ s.ckB ∧ t = ((s.setSt .waitSync1).noteRead .ckB).emitDiag (ckbFailEvent s.ckB b)) := by
  by_cases hb : b = s.ckB
  · subst hb; cases (execRxCkB_match s).symm.trans h; exact .inl ⟨rfl, rfl⟩
  · cases (execRxCkB_mismatch hb).symm.trans h; exact .inr ⟨hb, rfl⟩

/-! ### The marks of R20's table -/

/-- A command marks no register written, as it writes none (R20). -/
theorem exec_command_written {i : Instr} {s t : State} (hi : i.row.format = .ctl) (h : exec i s = .next t) :
    t.written = s.written := by
  rcases exec_command_next hi h with ⟨-, -, rfl⟩ | ⟨-, rfl⟩ | hsame
  · rfl
  · rfl
  · rw [hsame]

/-- The mark of a `FREAD`: it reads `len`, and only under a held frame (R140). -/
theorem State.fread_unwrittenRead {w : Word} {off : Half} {n : Nat} {signed : Bool} {s t : State}
    (h : s.fread w off n signed = .next t) :
    t.unwrittenRead = (s.unwrittenRead || (if s.hold then [Reg.len] else []).any fun r => !s.written.has r) := by
  rcases State.fread_next h with ⟨hh, rfl⟩ | ⟨hh, -, rfl⟩ | ⟨hh, -, raw, -, rfl⟩ <;> simp [hh]

/-- The column "written by" of R20: the registers marked written are those an instruction writes. -/
theorem exec_written_has {i : Instr} {s t : State} (h : exec i s = .next t) (r : Reg) :
    t.written.has r = (s.written.has r || (regsWritten i).contains r) := by
  cases i with
  | rxWaitSync1 b | rxWaitSync2 b => cases h; simp [regsWritten]
  | rxClass b | rxId b | rxLenLo b | rxLenHi b =>
    cases h; cases r <;> simp [regsWritten, Written.has]
  | rxPayload b =>
    obtain ⟨-, rfl⟩ := execRxPayload_next h
    cases r <;> simp [regsWritten, Written.has]
  | rxCkA b => rcases execRxCkA_next h with ⟨-, rfl⟩ | ⟨-, rfl⟩ <;> simp [regsWritten]
  | rxCkB b => rcases execRxCkB_next h with ⟨-, rfl⟩ | ⟨-, rfl⟩ <;> simp [regsWritten]
  | ack | cancel | freadU1 off | freadI1 off | freadU2 off | freadI2 off | freadU4 off | freadI4 off | status
  | illegal w => simp [exec_command_written rfl h, regsWritten]

/-- The column "read by" of R20: the mark is set by a read of a register that holds no value. -/
theorem exec_unwrittenRead {i : Instr} {s t : State} (h : exec i s = .next t) :
    t.unwrittenRead = (s.unwrittenRead || (regsRead i s).any fun r => !s.written.has r) := by
  cases i with
  | rxWaitSync1 b | rxWaitSync2 b | rxClass b | cancel | status | illegal w => cases h; simp [regsRead]
  | rxId b | rxLenLo b | rxLenHi b => cases h; simp [regsRead, Written.has, Bool.or_assoc]
  | rxPayload b =>
    obtain ⟨-, rfl⟩ := execRxPayload_next h
    simp [regsRead, Written.has, Bool.or_comm, Bool.or_left_comm]
  | rxCkA b => rcases execRxCkA_next h with ⟨-, rfl⟩ | ⟨-, rfl⟩ <;> simp [regsRead]
  | rxCkB b =>
    rcases execRxCkB_next h with ⟨hb, rfl⟩ | ⟨hb, rfl⟩
    · simp [regsRead, hb, Bool.or_assoc]
    · simp [regsRead, hb]
  | ack =>
    cases hh : s.hold with
    | true => cases (execAck_held hh).symm.trans h; simp [regsRead]
    | false => cases (execAck_noFrame hh).symm.trans h; simp [regsRead]
  | freadU1 off | freadI1 off | freadU2 off | freadI2 off | freadU4 off | freadI4 off =>
    exact State.fread_unwrittenRead h

/-- Settles O50, by the two columns of R20's table. -/
theorem bookkeepingFollowsTheRegisterTable : Obligations.BookkeepingFollowsTheRegisterTable := by
  unfold Obligations.BookkeepingFollowsTheRegisterTable
  exact fun i s t h => ⟨exec_written_has h, exec_unwrittenRead h⟩

/-! ### The writers of `hold` -/

/-- An `Rx` leaves `hold` alone, but for the byte that matches in `CK_B` (R22, R111). -/
theorem exec_rx_hold {st : St} {b : Byte} {s t : State} (hst : st ≠ .ckB ∨ b ≠ s.ckB)
    (h : exec (decodeRx st b) s = .next t) : t.hold = s.hold := by
  cases st with
  | waitSync1 | waitSync2 | cls | id | lenLo | lenHi => cases h; simp
  | payload => obtain ⟨-, rfl⟩ := execRxPayload_next h; simp
  | ckA => rcases execRxCkA_next h with ⟨-, rfl⟩ | ⟨-, rfl⟩ <;> simp
  | ckB =>
    have hb : b ≠ s.ckB := hst.resolve_left fun hne => hne rfl
    cases (execRxCkB_mismatch hb).symm.trans h
    simp

/-- After a command, `hold` is as before unless it was `ACK` or `CANCEL`, after which no frame is held (R160, R161). -/
theorem perform_ctl_hold {w : Word} {s t : State} (h : perform (.ctl w) s = .next t) :
    t.hold = true ↔ s.hold = true ∧ decodeCtl w ≠ .ack ∧ decodeCtl w ≠ .cancel := by
  have hexec : exec (decodeCtl w) s = .next t := h
  by_cases hack : decodeCtl w = .ack
  · rw [hack] at hexec
    have hfree : t.hold = false := by
      cases hh : s.hold with
      | true => cases (execAck_held hh).symm.trans hexec; rfl
      | false => cases (execAck_noFrame hh).symm.trans hexec; exact hh
    simp [hack, hfree]
  · by_cases hcancel : decodeCtl w = .cancel
    · rw [hcancel] at hexec
      cases hexec
      simp [hcancel]
    · have hsame : SameFsr s t := perform_quiet_ctl (by simp [Operation.quiet, hack, hcancel]) h
      have hhold : t.hold = s.hold := by rw [hsame]
      simp [hhold, hack, hcancel]

/-- Settles O44, by the kind of the operation. -/
theorem holdHasNoOtherWriter : Obligations.HoldHasNoOtherWriter := by
  unfold Obligations.HoldHasNoOtherWriter
  intro op s t h
  cases op with
  | rst => cases h; simp
  | rx b =>
    by_cases hmatch : s.st = .ckB ∧ b = s.ckB
    · obtain ⟨hst, rfl⟩ := hmatch
      cases (execRxCkB_match s).symm.trans ((perform_rx _ hst).symm.trans h)
      simp [hst]
    · have hhold : t.hold = s.hold := exec_rx_hold (not_and_or.1 hmatch) h
      simpa [hhold] using fun (hb : b = s.ckB) (hst : s.st = .ckB) => absurd ⟨hst, hb⟩ hmatch
  | ctl w => simpa using perform_ctl_hold h

/-! ### Reset and STATUS -/

/-- No register is marked written after reset (R33). -/
@[simp] theorem Written.has_none (r : Reg) : Written.none.has r = false := by cases r <;> rfl

/-- Bits 3..0 of STATUS are the state's code (R29). -/
theorem State.statusWord_code (s : State) : s.statusWord.extractLsb' 0 4 = s.st.code := by
  have h := BitVec.extractLsb'_append_eq_of_add_le (xhi := (0#27 ++ holdBit s.hold : BitVec (27 + 1)))
    (xlo := s.st.code) (start := 0) (len := 4) (by omega)
  simpa [State.statusWord] using h

/-- Bit 4 of STATUS is `hold` (R29). -/
theorem State.statusWord_hold (s : State) : s.statusWord.getLsbD 4 = s.hold := by
  unfold State.statusWord
  rw [BitVec.getLsbD_append, BitVec.getLsbD_append]
  cases hh : s.hold <;> simp [holdBit]

/-- The rest of STATUS reads 0 (R29). -/
theorem State.statusWord_rest (s : State) : s.statusWord.extractLsb' 5 27 = 0#27 := by
  apply BitVec.eq_of_getLsbD_eq
  intro i hi
  have habove : ¬ 5 + i < 4 ∧ ¬ 5 + i - 4 < 1 := by omega
  unfold State.statusWord
  rw [BitVec.getLsbD_extractLsb', BitVec.getLsbD_append, BitVec.getLsbD_append]
  simp [habove]

/-- STATUS of a state at rest with no held frame reads 0, as after `Rst` (R33). -/
theorem State.statusWord_atRest {s : State} (hst : s.st = .waitSync1) (hh : s.hold = false) :
    s.statusWord = 0x00000000#32 := by
  simp [State.statusWord, hst, hh, holdBit, St.code]

/-- Settles O1, from the reset state as R33 writes it. -/
theorem resetValuesAsStated : Obligations.ResetValuesAsStated := by
  unfold Obligations.ResetValuesAsStated
  exact fun cfg => ⟨rfl, rfl, Written.has_none, fun _ => rfl, State.statusWord_atRest rfl rfl, rfl⟩

/-- Settles O31, field by field. -/
theorem statusRegisterLayout : Obligations.StatusRegisterLayout := by
  unfold Obligations.StatusRegisterLayout
  refine ⟨fun s => ⟨s.statusWord_code, s.statusWord_hold, s.statusWord_rest⟩, fun s t h => ?_⟩
  cases h
  exact State.statusWord_atRest rfl rfl

/-! ### The invariant: states that meet it -/

/-- The places of the nine states in the source's order (R21). -/
@[simp] theorem rank_of_state : rank .waitSync1 = 0 ∧ rank .waitSync2 = 1 ∧ rank .cls = 2 ∧ rank .id = 3 ∧
    rank .lenLo = 4 ∧ rank .lenHi = 5 ∧ rank .payload = 6 ∧ rank .ckA = 7 ∧ rank .ckB = 8 := by decide

section MeetsInv

variable {s : State}

/-- Before the payload and with no held frame, the invariant asks for the registers received so far. -/
theorem Inv.of_header (hst : rank s.st ≤ 5) (hh : s.hold = false) (hbuf : s.buf.wf)
    (hcls : 3 ≤ rank s.st → s.written.cls = true ∧ s.written.ckA = true ∧ s.written.ckB = true)
    (hmid : 4 ≤ rank s.st → s.written.mid = true) (hlen : 5 ≤ rank s.st → s.written.len = true) : Inv s where
  bufWf := hbuf
  classWritten := hcls
  midWritten := hmid
  lenWritten := hlen
  cntWritten h := by omega
  cntBelowLen h := by simp [h] at hst
  payloadSoFar h := by simp [h] at hst
  payloadWhole h := h.elim (fun h => by omega) (fun h => by simp [hh] at h)
  heldAtRest h := by simp [hh] at h

/-- Before the class byte and with no held frame, the invariant asks for the canonical buffer only. -/
theorem Inv.of_early (hst : rank s.st ≤ 2) (hh : s.hold = false) (hbuf : s.buf.wf) : Inv s :=
  Inv.of_header (by omega) hh hbuf (fun _ => by omega) (fun _ => by omega) (fun _ => by omega)

/-- Inside the payload, the bytes below `cnt` are there, and `cnt` is below `len` (R26). -/
theorem Inv.of_payload (hst : s.st = .payload) (hh : s.hold = false) (hbuf : s.buf.wf)
    (hw : ∀ r, s.written.has r = true) (hcnt : s.cnt.toNat < s.len.toNat)
    (hbytes : ∀ k, k < s.cnt.toNat → (s.buf.read k).isSome) : Inv s where
  bufWf := hbuf
  classWritten _ := ⟨hw .cls, hw .ckA, hw .ckB⟩
  midWritten _ := hw .mid
  lenWritten _ := hw .len
  cntWritten _ := hw .cnt
  cntBelowLen _ := hcnt
  payloadSoFar _ := hbytes
  payloadWhole h := by simp [hst, hh] at h
  heldAtRest h := by simp [hh] at h

/-- At the checksum bytes, the whole payload is there. -/
theorem Inv.of_checksum (hst : 7 ≤ rank s.st) (hh : s.hold = false) (hbuf : s.buf.wf)
    (hw : ∀ r, s.written.has r = true) (hbytes : ∀ k, k < s.len.toNat → (s.buf.read k).isSome) : Inv s where
  bufWf := hbuf
  classWritten _ := ⟨hw .cls, hw .ckA, hw .ckB⟩
  midWritten _ := hw .mid
  lenWritten _ := hw .len
  cntWritten _ := hw .cnt
  cntBelowLen h := by simp [h] at hst
  payloadSoFar h := by simp [h] at hst
  payloadWhole _ := hbytes
  heldAtRest h := by simp [hh] at h

/-- Where `cnt` payload bytes have been received, the payload goes on or, with `len` of them, ends (R108, R109). -/
theorem Inv.of_received (hst : s.st = afterPayload s.cnt s.len) (hh : s.hold = false) (hbuf : s.buf.wf)
    (hw : ∀ r, s.written.has r = true) (hcnt : s.cnt.toNat ≤ s.len.toNat)
    (hbytes : ∀ k, k < s.cnt.toNat → (s.buf.read k).isSome) : Inv s := by
  unfold afterPayload at hst
  split at hst
  case isTrue hlast => exact Inv.of_checksum (by simp [hst]) hh hbuf hw (hlast ▸ hbytes)
  case isFalse hmore =>
    exact Inv.of_payload hst hh hbuf hw (lt_of_le_of_ne hcnt (BitVec.toNat_ne_iff_ne.2 hmore)) hbytes

/-- A held frame at rest has its whole payload and every register (R32). -/
theorem Inv.of_held (hst : s.st = .waitSync1) (hbuf : s.buf.wf) (hw : ∀ r, s.written.has r = true)
    (hbytes : ∀ k, k < s.len.toNat → (s.buf.read k).isSome) : Inv s where
  bufWf := hbuf
  classWritten h := by simp [hst] at h
  midWritten h := by simp [hst] at h
  lenWritten h := by simp [hst] at h
  cntWritten h := by simp [hst] at h
  cntBelowLen h := by simp [hst] at h
  payloadSoFar h := by simp [hst] at h
  payloadWhole _ := hbytes
  heldAtRest _ := ⟨hst, hw .cls, hw .mid, hw .len⟩

/-- The invariant does not speak of the log, the fault set, the read mark or the ports. -/
theorem Inv.withRecords (hi : Inv s) (log : List Event) (faults : FaultSet) (mark : Bool)
    (rx : List Byte) (ctl : List Word) (rst : Bool) (arb : Nat) :
    Inv { s with log := log, faults := faults, unwrittenRead := mark, rx := rx, ctl := ctl, rst := rst, arb := arb } :=
  { hi with }

/-- From the payload on, every data register holds a value (R32). -/
theorem Inv.allWritten (hi : Inv s) (hst : 6 ≤ rank s.st) (r : Reg) : s.written.has r = true := by
  obtain ⟨hcls, hckA, hckB⟩ := hi.classWritten (by omega)
  cases r with
  | cls => exact hcls
  | mid => exact hi.midWritten (by omega)
  | len => exact hi.lenWritten (by omega)
  | cnt => exact hi.cntWritten hst
  | ckA => exact hckA
  | ckB => exact hckB

end MeetsInv

/-- Settles O52: reset is before the class byte. -/
theorem invariantHoldsAfterReset : Obligations.InvariantHoldsAfterReset := by
  unfold Obligations.InvariantHoldsAfterReset
  exact fun cfg => Inv.of_early (Nat.zero_le 2) rfl Memory.wf_nil

/-! ### The invariant: every operation keeps it -/

/-- A known length is tested like a count of 0 bytes received (R108, R109). -/
theorem afterLength_eq (len : Half) : afterLength len = afterPayload 0#16 len := by
  simp only [afterLength, afterPayload, eq_comm (a := len)]

section Assembling

variable {s t : State} {b : Byte}

/-- The class byte writes `cls` and both accumulators (R105). -/
theorem Inv.after_class (hi : Inv s) (hh : s.hold = false) (h : execRxClass b s = .next t) : Inv t := by
  cases h
  exact Inv.of_header (by simp) hh hi.bufWf (by simp) (by simp) (by simp)

/-- The id byte writes `mid` (R106). -/
theorem Inv.after_id (hi : Inv s) (hst : s.st = .id) (hh : s.hold = false) (h : execRxId b s = .next t) :
    Inv t := by
  obtain ⟨hcls, -⟩ := hi.classWritten (by simp [hst])
  cases h
  exact Inv.of_header (by simp) (by simp [hh]) (by simpa using hi.bufWf) (by simp [hcls]) (by simp) (by simp)

/-- The first length byte writes `len` (R107). -/
theorem Inv.after_lenLo (hi : Inv s) (hst : s.st = .lenLo) (hh : s.hold = false)
    (h : execRxLenLo b s = .next t) : Inv t := by
  obtain ⟨hcls, -⟩ := hi.classWritten (by simp [hst])
  have hmid := hi.midWritten (by simp [hst])
  cases h
  exact Inv.of_header (by simp) (by simp [hh]) (by simpa using hi.bufWf) (by simp [hcls]) (by simp [hmid]) (by simp)

/-- The second length byte writes `cnt`, the last register, and a payload follows only when `len` is not 0 (R108). -/
theorem Inv.after_lenHi (hi : Inv s) (hst : s.st = .lenHi) (hh : s.hold = false)
    (h : execRxLenHi b s = .next t) : Inv t := by
  have hw (r : Reg) : t.written.has r = true := by
    obtain ⟨hcls, -⟩ := hi.classWritten (by simp [hst])
    have hmid := hi.midWritten (by simp [hst])
    cases h
    cases r <;> simp [Written.has, hcls, hmid]
  cases h
  exact Inv.of_received (by simp [afterLength_eq]) (by simp [hh]) (by simpa using hi.bufWf) hw (by simp) (by simp)

/-- What `RX.PAYLOAD` leaves in the fields the invariant speaks of (R109). -/
theorem execRxPayload_fields (h : execRxPayload b s = .next t) :
    t.st = afterPayload t.cnt t.len ∧ t.hold = s.hold ∧ t.len = s.len ∧ t.cnt = s.cnt + 1#16 ∧
      t.buf = s.buf.write s.cnt.toNat b := by
  obtain ⟨-, rfl⟩ := execRxPayload_next h
  simp

/-- A payload byte is stored at `cnt`; after the last one the whole payload is there (R109). -/
theorem Inv.after_payload (hi : Inv s) (hst : s.st = .payload) (hh : s.hold = false)
    (h : execRxPayload b s = .next t) : Inv t := by
  have hlt := hi.cntBelowLen hst
  have hw (r : Reg) : t.written.has r = true := by
    rw [exec_written_has (i := .rxPayload b) h, hi.allWritten (by simp [hst]), Bool.true_or]
  obtain ⟨htst, hthold, htlen, htcnt, htbuf⟩ := execRxPayload_fields h
  have hsucc : t.cnt.toNat = s.cnt.toNat + 1 := by
    rw [htcnt]; exact BitVec.toNat_add_of_lt (by simp; omega)
  have hwf : t.buf.wf := htbuf ▸ Memory.wf_write b (execRxPayload_next h).1 hi.bufWf
  refine Inv.of_received htst (hthold.trans hh) hwf hw (by rw [hsucc, htlen]; exact hlt) fun k hk => ?_
  rw [htbuf, Memory.read_write]
  split
  · rfl
  · exact hi.payloadSoFar hst k (by omega)

/-- A byte compared with `ckA` (R110). -/
theorem Inv.after_ckA (hi : Inv s) (hst : s.st = .ckA) (hh : s.hold = false)
    (h : execRxCkA b s = .next t) : Inv t := by
  rcases execRxCkA_next h with ⟨-, rfl⟩ | ⟨-, rfl⟩
  · exact Inv.of_checksum (by simp) hh hi.bufWf (hi.allWritten (by simp [hst]))
      (hi.payloadWhole (.inl (by simp [hst])))
  · exact Inv.of_early (by simp) (by simp [hh]) (by simpa using hi.bufWf)

/-- A byte compared with `ckB`: a match makes the whole payload a held frame (R111). -/
theorem Inv.after_ckB (hi : Inv s) (hst : s.st = .ckB) (hh : s.hold = false)
    (h : execRxCkB b s = .next t) : Inv t := by
  rcases execRxCkB_next h with ⟨-, rfl⟩ | ⟨-, rfl⟩
  · exact Inv.of_held rfl hi.bufWf (hi.allWritten (by simp [hst])) (hi.payloadWhole (.inl (by simp [hst])))
  · exact Inv.of_early (by simp) (by simp [hh]) (by simpa using hi.bufWf)

/-- Every accepted byte keeps the invariant; none is accepted under a held frame (R100). -/
theorem Inv.of_exec_rx (hi : Inv s) (hh : s.hold = false) (h : exec (decodeRx s.st b) s = .next t) : Inv t := by
  cases hst : s.st <;> rw [hst] at h
  case waitSync1 | waitSync2 =>
    cases h
    exact Inv.of_early (by rw [State.setSt_st]; split_ifs <;> simp) hh hi.bufWf
  case cls => exact hi.after_class hh h
  case id => exact hi.after_id hst hh h
  case lenLo => exact hi.after_lenLo hst hh h
  case lenHi => exact hi.after_lenHi hst hh h
  case payload => exact hi.after_payload hst hh h
  case ckA => exact hi.after_ckA hst hh h
  case ckB => exact hi.after_ckB hst hh h

end Assembling

/-- Every decoded command keeps the invariant. -/
theorem Inv.of_exec_command {i : Instr} {s t : State} (hi : Inv s) (hf : i.row.format = .ctl)
    (h : exec i s = .next t) : Inv t := by
  rcases exec_command_next hf h with ⟨-, hh, rfl⟩ | ⟨-, rfl⟩ | hsame
  · obtain ⟨hst, -⟩ := hi.heldAtRest hh
    exact Inv.of_early (by simp [hst]) rfl hi.bufWf
  · exact Inv.of_early (by simp) rfl hi.bufWf
  · rw [hsame]
    exact hi.withRecords t.log t.faults t.unwrittenRead s.rx s.ctl s.rst s.arb

/-- Every enabled operation keeps the invariant. -/
theorem Inv.of_perform {op : Operation} {s t : State} (hi : Inv s) (hen : op.enabled s = true)
    (h : perform op s = .next t) : Inv t := by
  cases op with
  | rst => cases h; exact Inv.of_early (by simp) rfl Memory.wf_nil
  | rx b => exact hi.of_exec_rx (by simpa [Operation.enabled] using hen) h
  | ctl w => exact hi.of_exec_command (decodeCtl_format w) h

/-- Taking a transfer from a port keeps the invariant and leaves the operation enabled. -/
theorem Inv.of_take {s t : State} {op : Operation} (hi : Inv s) (h : s.take = some (op, t)) :
    Inv t ∧ op.enabled t = true := by
  have hen := (State.take_some h).1
  rw [State.take_keeps h]
  exact ⟨hi.withRecords s.log s.faults s.unwrittenRead t.rx t.ctl t.rst t.arb, by cases op <;> exact hen⟩

/-- Settles O53: a step performs an enabled operation, or nothing. -/
theorem stepKeepsTheInvariant : Obligations.StepKeepsTheInvariant := by
  unfold Obligations.StepKeepsTheInvariant
  intro s t hi h
  rcases step_cases s with ⟨-, hpark⟩ | ⟨op, u, htake, hstep⟩
  · cases hpark.symm.trans h
    exact hi
  · obtain ⟨hu, hen⟩ := hi.of_take htake
    exact hu.of_perform hen (hstep.symm.trans h)

/-! ### The invariant: every operation goes on and reads written data only -/

/-- A command reads `len` only, and only under a held frame (R20, R140). -/
theorem regsRead_command {i : Instr} {s : State} {r : Reg} (hf : i.row.format = .ctl) (hr : r ∈ regsRead i s) :
    r = .len ∧ s.hold = true := by
  cases i with
  | rxWaitSync1 b | rxWaitSync2 b | rxClass b | rxId b | rxLenLo b | rxLenHi b | rxPayload b | rxCkA b | rxCkB b =>
    cases hf
  | ack | cancel | status | illegal w => simp [regsRead] at hr
  | freadU1 off | freadI1 off | freadU2 off | freadI2 off | freadU4 off | freadI4 off =>
    simpa [regsRead, and_comm] using hr

/-- The registers an accepted byte reads hold values (R32). -/
theorem Inv.regsRead_rx {s : State} {b : Byte} {r : Reg} (hi : Inv s) (hr : r ∈ regsRead (decodeRx s.st b) s) :
    s.written.has r = true := by
  cases hst : s.st <;> rw [hst] at hr
  case waitSync1 | waitSync2 | cls => simp [decodeRx, regsRead] at hr
  case id | lenLo =>
    obtain ⟨-, hckA, hckB⟩ := hi.classWritten (by simp [hst])
    rcases (by simpa [decodeRx, regsRead] using hr : r = .ckA ∨ r = .ckB) with rfl | rfl
    · exact hckA
    · exact hckB
  case lenHi =>
    obtain ⟨-, hckA, hckB⟩ := hi.classWritten (by simp [hst])
    rcases (by simpa [decodeRx, regsRead] using hr : r = .len ∨ r = .ckA ∨ r = .ckB) with rfl | rfl | rfl
    · exact hi.lenWritten (by simp [hst])
    · exact hckA
    · exact hckB
  case payload | ckA | ckB => exact hi.allWritten (by simp [hst]) r

/-- No operation sets the mark of a read of a register that holds no value (R32). -/
theorem Inv.perform_unwrittenRead {op : Operation} {s t : State} (hi : Inv s) (h : perform op s = .next t) :
    t.unwrittenRead = s.unwrittenRead := by
  have hmark {i : Instr} (hexec : exec i s = .next t) (hall : ∀ r ∈ regsRead i s, s.written.has r = true) :
      t.unwrittenRead = s.unwrittenRead := by
    have hnone : ((regsRead i s).any fun r => !s.written.has r) = false := by simpa using hall
    rw [exec_unwrittenRead hexec, hnone, Bool.or_false]
  cases op with
  | rst => cases h; rfl
  | rx b => exact hmark h fun r hr => hi.regsRead_rx hr
  | ctl w =>
    refine hmark h fun r hr => ?_
    obtain ⟨rfl, hh⟩ := regsRead_command (decodeCtl_format w) hr
    obtain ⟨-, -, -, hlen⟩ := hi.heldAtRest hh
    exact hlen

/-- Every field read goes on: the bytes of a held payload hold values (R32). -/
theorem Inv.fread_goesOn {s : State} (hi : Inv s) (w : Word) (off : Half) (n : Nat) (signed : Bool) :
    ∃ t, s.fread w off n signed = .next t := by
  cases hh : s.hold with
  | false => exact ⟨_, State.fread_noFrame hh⟩
  | true =>
    by_cases ho : s.len.toNat < off.toNat + n
    · exact ⟨_, State.fread_outside hh ho⟩
    · have hin : off.toNat + n ≤ s.len.toNat := Nat.not_lt.1 ho
      obtain ⟨raw, hraw⟩ := State.memRead_completes n (hin.trans (toNat_le_payloadCap s.len))
        fun k _ hk => hi.payloadWhole (.inr hh) k (hk.trans_le hin)
      exact ⟨_, State.fread_inside hh hin hraw⟩

/-- Every accepted byte goes on: in the payload `cnt` is the index of a byte that exists (R26, R40). -/
theorem Inv.exec_rx_goesOn {s : State} (hi : Inv s) (b : Byte) : ∃ t, exec (decodeRx s.st b) s = .next t := by
  cases hst : s.st
  case payload => exact ⟨_, execRxPayload_eq b ((hi.cntBelowLen hst).trans_le (toNat_le_payloadCap s.len))⟩
  case waitSync1 | waitSync2 | cls | id | lenLo | lenHi | ckA | ckB => exact ⟨_, rfl⟩

/-- Every command goes on. -/
theorem Inv.exec_command_goesOn {i : Instr} {s : State} (hi : Inv s) (hf : i.row.format = .ctl) :
    ∃ t, exec i s = .next t := by
  cases i with
  | rxWaitSync1 b | rxWaitSync2 b | rxClass b | rxId b | rxLenLo b | rxLenHi b | rxPayload b | rxCkA b | rxCkB b =>
    cases hf
  | ack | cancel | status | illegal w => exact ⟨_, rfl⟩
  | freadU1 off | freadI1 off | freadU2 off | freadI2 off | freadU4 off | freadI4 off =>
    exact hi.fread_goesOn _ off _ _

/-- Every operation goes on from a state with the invariant (R203). -/
theorem Inv.perform_goesOn {s : State} (hi : Inv s) (op : Operation) : ∃ t, perform op s = .next t := by
  cases op with
  | rst => exact ⟨_, rfl⟩
  | rx b => exact hi.exec_rx_goesOn b
  | ctl w => exact hi.exec_command_goesOn (decodeCtl_format w)

/-- Settles O54: the operation a step performs goes on and sets no mark. -/
theorem stepNeverReadsUnwritten : Obligations.StepNeverReadsUnwritten := by
  unfold Obligations.StepNeverReadsUnwritten
  intro s hi
  rcases step_cases s with ⟨-, hpark⟩ | ⟨op, u, htake, hstep⟩
  · exact ⟨s, hpark, rfl⟩
  · obtain ⟨hu, -⟩ := hi.of_take htake
    obtain ⟨t, ht⟩ := hu.perform_goesOn op
    have hkept : u.unwrittenRead = s.unwrittenRead := by rw [State.take_keeps htake]
    exact ⟨t, hstep.trans ht, (hu.perform_unwrittenRead ht).trans hkept⟩

/-! ### Runs -/

/-- What every enabled operation keeps, a run keeps. -/
theorem Run.keeps {P : State → Prop}
    (hkeep : ∀ {op : Operation} {s t : State}, op.enabled s = true → perform op s = .next t → P s → P t)
    {s t : State} {ops : List Operation} (h : Run s ops t) : P s → P t := by
  induction h with
  | nil s => exact id
  | cons hen hop _ ih => exact fun hs => ih (hkeep hen hop hs)

/-- A run keeps the invariant, and sets no mark of an unwritten read. -/
theorem Inv.of_run {s t : State} {ops : List Operation} (hi : Inv s) (h : Run s ops t) :
    Inv t ∧ t.unwrittenRead = s.unwrittenRead :=
  h.keeps (P := fun u => Inv u ∧ u.unwrittenRead = s.unwrittenRead)
    (fun hen hop hu => ⟨hu.1.of_perform hen hop, (hu.1.perform_unwrittenRead hop).trans hu.2⟩) ⟨hi, rfl⟩

/-- Settles O55: reset has the invariant, so every run keeps it. -/
theorem runsReadOnlyWrittenData : Obligations.RunsReadOnlyWrittenData := by
  unfold Obligations.RunsReadOnlyWrittenData
  intro cfg ops t h
  obtain ⟨hi, hmark⟩ := (invariantHoldsAfterReset cfg).of_run h
  exact ⟨hmark, fun op _ => hi.perform_goesOn op⟩

end Sys2Proof.Machine

/-! The family 20_memory.md: who writes the payload buffer (R41) and at which indices (R40), what a multi-byte read says of the single bytes (R44), reads repeated under one held frame (R46), and the port a contested step serves (R48). -/

namespace Sys2Proof.Machine

/-! ### The writer of the buffer -/

/-- An `Rx` in any state but `PAYLOAD` leaves the buffer alone (R41). -/
theorem exec_rx_buf {st : St} {b : Byte} {s t : State} (hst : st ≠ .payload)
    (h : exec (decodeRx st b) s = .next t) : t.buf = s.buf := by
  cases st with
  | waitSync1 | waitSync2 | cls | id | lenLo | lenHi => cases h; simp
  | payload => exact absurd rfl hst
  | ckA => rcases execRxCkA_next h with ⟨-, rfl⟩ | ⟨-, rfl⟩ <;> simp
  | ckB => rcases execRxCkB_next h with ⟨-, rfl⟩ | ⟨-, rfl⟩ <;> simp

/-- A command leaves the buffer alone (R41). -/
theorem exec_command_buf {i : Instr} {s t : State} (hi : i.row.format = .ctl) (h : exec i s = .next t) :
    t.buf = s.buf := by
  rcases exec_command_next hi h with ⟨-, -, rfl⟩ | ⟨-, rfl⟩ | hsame
  · rfl
  · rfl
  · rw [hsame]

/-- Settles O45, by the kind of the operation; in `PAYLOAD` the write reaches the index `cnt` only. -/
theorem bufferHasOneWriter : Obligations.BufferHasOneWriter := by
  unfold Obligations.BufferHasOneWriter
  intro op s t h a hchanged
  cases op with
  | rst => cases h; exact .inr ⟨rfl, rfl⟩
  | rx b =>
    by_cases hst : s.st = .payload
    · have hbuf : t.buf = s.buf.write s.cnt.toNat b := by
        obtain ⟨-, rfl⟩ := execRxPayload_next ((perform_rx b hst).symm.trans h)
        simp
      have ha : a = s.cnt.toNat := by
        by_contra hother
        exact hchanged (by rw [hbuf, Memory.read_write_other s.buf b hother])
      exact .inl ⟨b, rfl, hst, ha, by rw [hbuf, ha, Memory.read_write_same]⟩
    · exact absurd (by rw [exec_rx_buf hst h]) hchanged
  | ctl w => exact absurd (by rw [exec_command_buf (decodeCtl_format w) h]) hchanged

/-- `RX.PAYLOAD` where the index does not exist (R40; log 11). -/
theorem execRxPayload_noSuchByte (b : Byte) {s : State} (h : payloadCap ≤ s.cnt.toNat) :
    execRxPayload b s = .fault (.noSuchByte s.cnt.toNat) := by
  simp [execRxPayload, State.memWrite, Nat.not_lt.2 h]

/-- Settles O14: 65535 is the first index that does not exist. -/
theorem payloadStopsAtMissingIndex : Obligations.PayloadStopsAtMissingIndex := by
  unfold Obligations.PayloadStopsAtMissingIndex
  intro b s hcnt
  have hindex : s.cnt.toNat = 65535 := by rw [hcnt]; rfl
  exact hindex ▸ execRxPayload_noSuchByte b hindex.ge

/-! ### The bytes of a field -/

/-- Everything a little-endian read of one byte more answers (R42). -/
theorem State.memRead_succ_eq_ok {s : State} {off n : Nat} {raw : Word} :
    s.memRead off (n + 1) = .ok raw ↔ ∃ b rest, s.readByte off = .ok b ∧ s.memRead (off + 1) n = .ok rest ∧
      b.setWidth 32 ||| (rest <<< 8) = raw := by
  rw [State.memRead]
  cases s.readByte off <;> cases s.memRead (off + 1) n <;> simp

/-- The byte at `off` is the least significant of a little-endian word (R42). -/
theorem lowByte_of_littleEndian (b : Byte) (rest : Word) :
    (b.setWidth 32 ||| (rest <<< 8)).extractLsb' 0 8 = b := by
  ext i hi
  have hin : i < 32 := by omega
  simp [hi, hin]

/-- The bytes after the one at `off` stand one byte higher in a little-endian word (R42). -/
theorem highByte_of_littleEndian (b : Byte) (rest : Word) {k : Nat} (hk : k + 1 < 4) :
    (b.setWidth 32 ||| (rest <<< 8)).extractLsb' (8 * (k + 1)) 8 = rest.extractLsb' (8 * k) 8 := by
  ext i hi
  have hin : 8 * (k + 1) + i < 32 := by omega
  have hrest : 8 * k + i < 32 := by omega
  have habove : 8 ≤ 8 * (k + 1) + i := by omega
  have hshift : 8 * (k + 1) + i - 8 = 8 * k + i := by omega
  simp [hin, hrest, Nat.not_lt.2 habove, hshift, BitVec.getLsbD_of_ge b _ habove]

/-- The byte at `off + k` stands in bits `8k+7 .. 8k` of a little-endian read (R44). -/
theorem State.readByte_of_memRead {s : State} {n : Nat} (hn : n ≤ 4) : ∀ {off k : Nat} {raw : Word},
    s.memRead off n = .ok raw → k < n → s.readByte (off + k) = .ok (raw.extractLsb' (8 * k) 8) := by
  induction n with
  | zero => intro off k raw _ hk; omega
  | succ n ih =>
    intro off k raw hraw hk
    obtain ⟨b, rest, hb, hrest, rfl⟩ := State.memRead_succ_eq_ok.1 hraw
    cases k with
    | zero => rw [lowByte_of_littleEndian]; exact hb
    | succ k =>
      rw [highByte_of_littleEndian b rest (by omega), ← Nat.succ_add_eq_add_succ]
      exact ih (by omega) hrest (by omega)

/-- Extension changes no bit of the field (R140). -/
theorem extendField_getLsbD (signed : Bool) {n i : Nat} (raw : Word) (hi : i < 8 * n) (h32 : i < 32) :
    (extendField signed n raw).getLsbD i = raw.getLsbD i := by
  unfold extendField
  split
  · rw [BitVec.getLsbD_signExtend]
    simp [hi, h32]
  · simp [hi, h32]

/-- Extension changes no byte of the field (R140). -/
theorem extendField_byte (signed : Bool) {n k : Nat} (raw : Word) (hk : k < n) (hn : n ≤ 4) :
    (extendField signed n raw).extractLsb' (8 * k) 8 = raw.extractLsb' (8 * k) 8 := by
  apply BitVec.eq_of_getLsbD_eq
  intro i hi
  rw [BitVec.getLsbD_extractLsb', BitVec.getLsbD_extractLsb',
    extendField_getLsbD signed raw (by omega) (by omega)]

/-- A field has at most 4 bytes (R42). -/
theorem Width.bytes_le (width : Width) : width.bytes ≤ 4 := by
  cases width <;> decide

/-- `FREAD.U1` of a byte of the held payload emits that byte (R142). -/
theorem emits_freadU1 {s : State} {off : Half} {b : Byte} (hh : s.hold = true) (ho : off.toNat < s.len.toNat)
    (hb : s.readByte off.toNat = .ok b) : Claims.emits (.freadU1 off) s ⟨.field, b.setWidth 32⟩ := by
  have hraw : s.memRead off.toNat 1 = .ok (b.setWidth 32 ||| (0#32 <<< 8)) := State.memRead_succ hb rfl
  have hext : extendField false 1 (b.setWidth 32 ||| (0#32 <<< 8)) = b.setWidth 32 := by simp [extendField]
  refine ⟨_, State.fread_inside hh ho hraw, ?_⟩
  rw [hext]
  rfl

/-- A `FREAD` that emits a field value read it inside the held payload (R140). -/
theorem State.fread_field {w : Word} {off : Half} {n : Nat} {signed : Bool} {s t : State} {v : Word}
    (h : s.fread w off n signed = .next t) (hlog : t.log = s.log ++ [⟨.field, v⟩]) :
    s.hold = true ∧ off.toNat + n ≤ s.len.toNat ∧ ∃ raw, s.memRead off.toNat n = .ok raw ∧
      v = extendField signed n raw := by
  rcases State.fread_next h with ⟨-, rfl⟩ | ⟨-, -, rfl⟩ | ⟨hh, ho, raw, hraw, rfl⟩
  · simp [cmdErrEvent] at hlog
  · simp [fieldOobEvent] at hlog
  · exact ⟨hh, ho, raw, hraw, by simpa [fieldEvent] using hlog.symm⟩

/-- Settles O23: each byte the field read saw is there for the one-byte read, and extension has kept it. -/
theorem freadAgreesWithByteReads : Obligations.FreadAgreesWithByteReads := by
  unfold Obligations.FreadAgreesWithByteReads
  intro width signed off s t v h hlog k hk
  rw [exec_freadForm] at h
  obtain ⟨hh, ho, raw, hraw, rfl⟩ := State.fread_field h hlog
  have hoff : (BitVec.ofNat 16 (off.toNat + k)).toNat = off.toNat + k := by
    have hlen := s.len.isLt
    simp only [BitVec.toNat_ofNat]
    omega
  have hbyte := State.readByte_of_memRead width.bytes_le hraw hk
  rw [extendField_byte signed raw hk width.bytes_le]
  exact emits_freadU1 hh (by omega) (by rw [hoff]; exact hbyte)

/-! ### Reads of one held frame -/

section SameFsr

variable {s t u : State}

/-- Where the FSR's registers are the same, so is `hold`. -/
theorem SameFsr.hold_eq (h : SameFsr s t) : t.hold = s.hold := by rw [h]

/-- Where the FSR's registers are the same, so is the length. -/
theorem SameFsr.len_eq (h : SameFsr s t) : t.len = s.len := by rw [h]

/-- Where the FSR's buffer is the same, so is every read of it. -/
theorem SameFsr.memRead_eq (h : SameFsr s t) (off n : Nat) : t.memRead off n = s.memRead off n :=
  State.memRead_congr n fun k _ _ => by rw [h]

/-- Agreement of the FSR's registers and buffer passes along. -/
theorem SameFsr.trans (hst : SameFsr s t) (htu : SameFsr t u) : SameFsr s u := by
  unfold SameFsr at *
  rw [htu, hst]

end SameFsr

/-- A `FREAD` that goes on emits one event, and emits it wherever the FSR's registers and buffer are the same (R46). -/
theorem State.fread_event {w : Word} {off : Half} {n : Nat} {signed : Bool} {s t : State}
    (h : s.fread w off n signed = .next t) : ∃ e, t.log = s.log ++ [e] ∧
      ∀ u, SameFsr s u → ∃ v, u.fread w off n signed = .next v ∧ v.log = u.log ++ [e] := by
  rcases State.fread_next h with ⟨hh, rfl⟩ | ⟨hh, ho, rfl⟩ | ⟨hh, ho, raw, hraw, rfl⟩
  · exact ⟨_, rfl, fun u hu => ⟨_, State.fread_noFrame (hu.hold_eq.trans hh), rfl⟩⟩
  · exact ⟨_, rfl, fun u hu => ⟨_, State.fread_outside (hu.hold_eq.trans hh) (hu.len_eq ▸ ho), rfl⟩⟩
  · exact ⟨_, rfl, fun u hu =>
      ⟨_, State.fread_inside (hu.hold_eq.trans hh) (hu.len_eq ▸ ho) ((hu.memRead_eq _ _).trans hraw), rfl⟩⟩

/-- While a frame is held, a quiet operation leaves the FSR's registers and buffer alone: no byte is accepted (R100). -/
theorem perform_quiet_held {op : Operation} {s t : State} (hh : s.hold = true) (hq : op.quiet = true)
    (hen : op.enabled s = true) (h : perform op s = .next t) : SameFsr s t := by
  cases op with
  | rst => cases hq
  | rx b => simp [Operation.enabled, hh] at hen
  | ctl w => exact perform_quiet_ctl hq h

/-- A quiet run from a held frame leaves the FSR's registers and buffer alone (R46). -/
theorem Run.sameFsr_of_held {s u : State} {ops : List Operation} (h : Run s ops u) (hh : s.hold = true)
    (hq : ∀ op ∈ ops, op.quiet = true) : SameFsr s u := by
  induction h with
  | nil s => rfl
  | cons hen hop _ ih =>
    obtain ⟨hquiet, hrest⟩ := List.forall_mem_cons.1 hq
    have hstep := perform_quiet_held hh hquiet hen hop
    exact hstep.trans (ih (hstep.hold_eq.trans hh) hrest)

/-- Settles O24: the first read and the quiet run leave the held frame alone, so the second read answers alike. -/
theorem heldFieldReadsRepeat : Obligations.HeldFieldReadsRepeat := by
  unfold Obligations.HeldFieldReadsRepeat
  intro width signed off s t u e ops hh h hlog hq hrun
  rw [exec_freadForm] at h
  have hread : SameFsr s t := State.fread_sameFsr h
  have hsame : SameFsr s u := hread.trans (hrun.sameFsr_of_held (hread.hold_eq.trans hh) hq)
  obtain ⟨e', hlog', hrepeat⟩ := State.fread_event h
  obtain rfl : e = e' := by simpa using hlog.symm.trans hlog'
  rw [exec_freadForm]
  exact hrepeat u hsame

/-! ### The contested step -/

/-- Settles O39: either value of the free choice performs its transfer in the current state. -/
theorem contestedStepTakesOneTransfer : Obligations.ContestedStepTakesOneTransfer := by
  unfold Obligations.ContestedStepTakesOneTransfer
  intro s b bs w ws hrst hhold hrx hctl
  have htake := State.take_contested (by simp [State.rxReady, hhold, hrst]) hrx hctl
  split at htake
  · exact .inl (step_of_take htake)
  · exact .inr (step_of_take htake)

end Sys2Proof.Machine

/-! The family 30_encoding.md: encoding and decoding are inverse (R64 to R68), the decision list of R69, the opcode table, the FieldSpec mapping (R72), and what emits each event (R70). -/

namespace Sys2Proof.Machine

open Claims (freadForm emittedBy)

/-! ### The kinds of instruction -/

/-- Case analysis by kind: an `Rx` is one rule for a state and a byte (R64), a `FREAD` one form for a width and a signedness (R67). -/
theorem Instr.casesByKind {motive : Instr → Prop} (rx : ∀ st b, motive (decodeRx st b)) (ack : motive .ack)
    (cancel : motive .cancel) (status : motive .status)
    (fread : ∀ width signed off, motive (freadForm width signed off)) (illegal : ∀ w, motive (.illegal w))
    (i : Instr) : motive i := by
  cases i with
  | rxWaitSync1 b => exact rx .waitSync1 b
  | rxWaitSync2 b => exact rx .waitSync2 b
  | rxClass b => exact rx .cls b
  | rxId b => exact rx .id b
  | rxLenLo b => exact rx .lenLo b
  | rxLenHi b => exact rx .lenHi b
  | rxPayload b => exact rx .payload b
  | rxCkA b => exact rx .ckA b
  | rxCkB b => exact rx .ckB b
  | ack => exact ack
  | cancel => exact cancel
  | freadU1 off => exact fread .one false off
  | freadI1 off => exact fread .one true off
  | freadU2 off => exact fread .two false off
  | freadI2 off => exact fread .two true off
  | freadU4 off => exact fread .four false off
  | freadI4 off => exact fread .four true off
  | status => exact status
  | illegal w => exact illegal w

@[simp] theorem encode_decodeRx (st : St) (b : Byte) : encode (decodeRx st b) = .rx (rxKey st b) := by
  cases st <;> rfl

@[simp] theorem wf_decodeRx (st : St) (b : Byte) : (decodeRx st b).wf = true := by cases st <;> rfl

@[simp] theorem format_decodeRx (st : St) (b : Byte) : (decodeRx st b).row.format = .rx := by cases st <;> rfl

@[simp] theorem encode_freadForm (width : Width) (signed : Bool) (off : Half) :
    encode (freadForm width signed off) = .ctl (freadWord (signBit signed) width.code off) := by
  cases width <;> cases signed <;> rfl

@[simp] theorem wf_freadForm (width : Width) (signed : Bool) (off : Half) :
    (freadForm width signed off).wf = true := by
  cases width <;> cases signed <;> rfl

@[simp] theorem format_freadForm (width : Width) (signed : Bool) (off : Half) :
    (freadForm width signed off).row.format = .ctl := by
  cases width <;> cases signed <;> rfl

/-! ### The fields of a command word -/

/-- The `sgn` bit of a signedness, for both bits. -/
theorem exists_signBit (sgn : BitVec 1) : ∃ signed, sgn = signBit signed := by
  revert sgn; decide

/-- The three codes that are not reserved are the widths' codes (R67). -/
theorem exists_width_of_ne {wc : BitVec 2} (h : wc ≠ 0b11#2) : ∃ width : Width, wc = width.code := by
  have hcode : ∀ wc : BitVec 2, wc ≠ 0b11#2 → wc = Width.one.code ∨ wc = Width.two.code ∨ wc = Width.four.code := by
    decide
  rcases hcode wc h with h | h | h <;> exact ⟨_, h⟩

/-- No width has the reserved code (R67). -/
@[simp] theorem Width.code_ne (width : Width) : width.code ≠ 0b11#2 := by cases width <;> decide

/-- The width and the sign bit select the form (R67). -/
@[simp] theorem decodeFread_code (width : Width) (signed : Bool) (off : Half) :
    decodeFread (signBit signed) width.code off = some (freadForm width signed off) := by
  cases width <;> cases signed <;> rfl

/-- The reserved width code selects no form (R67). -/
@[simp] theorem decodeFread_reserved (sgn : BitVec 1) (off : Half) : decodeFread sgn 0b11#2 off = none := by
  simp [decodeFread]

/-- R68 of the fixed words: below the opcode every field is 0. -/
theorem CtlFields.restZero_iff {f : CtlFields} :
    f.restZero = true ↔ f = { op := f.op, rsv := 0#9, sgn := 0#1, wc := 0#2, off := 0#16 } := by
  obtain ⟨op, rsv, sgn, wc, off⟩ := f
  simp [CtlFields.restZero, and_assoc]

/-! ### The legal command words -/

/-- The words of R66 and R67, each with its command: the only legal ones (R68). -/
inductive LegalWord : Word → Instr → Prop where
  | ack : LegalWord 0x10000000#32 .ack
  | cancel : LegalWord 0x20000000#32 .cancel
  | status : LegalWord 0x40000000#32 .status
  | fread (width : Width) (signed : Bool) (off : Half) :
      LegalWord (freadWord (signBit signed) width.code off) (freadForm width signed off)

/-- The fields of a legal word decode to its command. -/
theorem LegalWord.decodeFields_eq {w : Word} {i : Instr} (h : LegalWord w i) :
    decodeFields (CtlFields.ofWord w) = some i := by
  cases h with
  | ack | cancel | status => rfl
  | fread width signed off => simp [decodeFields]

/-- A fixed command decodes only from its opcode with every other field 0 (R66, R68). -/
theorem LegalWord.of_fixed {f : CtlFields} {op : BitVec 4} {i j : Instr} (hop : f.op = op)
    (hj : LegalWord (CtlFields.toWord ⟨op, 0#9, 0#1, 0#2, 0#16⟩) j)
    (h : (if f.restZero then some j else none) = some i) : LegalWord f.toWord i := by
  obtain ⟨hrest, rfl⟩ : f.restZero = true ∧ j = i := by simpa using h
  rw [CtlFields.restZero_iff.1 hrest, hop]
  exact hj

/-- Fields that decode are those of a legal word. -/
theorem LegalWord.of_decodeFields {f : CtlFields} {i : Instr} (h : decodeFields f = some i) :
    LegalWord f.toWord i := by
  unfold decodeFields at h
  split at h
  case isTrue hop => exact of_fixed hop .ack h
  split at h
  case isTrue hop => exact of_fixed hop .cancel h
  split at h
  case isTrue hop => exact of_fixed hop .status h
  split at h
  case isTrue hop =>
    obtain ⟨op, rsv, sgn, wc, off⟩ := f
    obtain ⟨hrsv, hfread⟩ : rsv = 0#9 ∧ decodeFread sgn wc off = some i := by simpa using h
    have hwc : wc ≠ 0b11#2 := fun hwc => by simp [hwc] at hfread
    obtain ⟨width, rfl⟩ := exists_width_of_ne hwc
    obtain ⟨signed, rfl⟩ := exists_signBit sgn
    obtain rfl : freadForm width signed off = i := by simpa using hfread
    cases hop
    cases hrsv
    exact .fread width signed off
  case isFalse => cases h

/-- The fields of a word decode to a command exactly when the word is the command's legal word. -/
theorem decodeFields_ofWord_eq_some {w : Word} {i : Instr} :
    decodeFields (CtlFields.ofWord w) = some i ↔ LegalWord w i :=
  ⟨fun h => CtlFields.toWord_ofWord w ▸ LegalWord.of_decodeFields h, LegalWord.decodeFields_eq⟩

/-- The opcode, the reserved bits, the sign, the width code and the offset of a `FREAD` word (R65, R67). -/
theorem freadWord_fields (sgn : BitVec 1) (wc : BitVec 2) (off : Half) :
    (freadWord sgn wc off).extractLsb' 28 4 = 0x3#4 ∧ (freadWord sgn wc off).extractLsb' 19 9 = 0#9 ∧
      (freadWord sgn wc off).extractLsb' 18 1 = sgn ∧ (freadWord sgn wc off).extractLsb' 16 2 = wc ∧
      (freadWord sgn wc off).extractLsb' 0 16 = off := by
  simpa only [CtlFields.ofWord, CtlFields.mk.injEq] using ofWord_freadWord sgn wc off

/-- Opcode 3 with no reserved bit set is the `FREAD` word of the other fields (R67). -/
theorem eq_freadWord {w : Word} (hop : w.extractLsb' 28 4 = 0x3#4) (hrsv : w.extractLsb' 19 9 = 0#9) :
    w = freadWord (w.extractLsb' 18 1) (w.extractLsb' 16 2) (w.extractLsb' 0 16) := by
  have h := (CtlFields.toWord_ofWord w).symm
  rwa [CtlFields.ofWord, hop, hrsv] at h

/-- The test of R68 accepts the legal words. -/
theorem LegalWord.legalCommand_eq_true {w : Word} {i : Instr} (h : LegalWord w i) : legalCommand w = true := by
  cases h with
  | ack | cancel | status => decide
  | fread width signed off =>
    obtain ⟨hop, hrsv, -, hwc, -⟩ := freadWord_fields (signBit signed) width.code off
    simp [legalCommand, hop, hrsv, hwc]

/-- The test of R68 accepts no other word. -/
theorem LegalWord.of_legalCommand {w : Word} (h : legalCommand w = true) : ∃ i, LegalWord w i := by
  rcases (by simpa [legalCommand, or_assoc, and_assoc] using h :
    w = 0x10000000#32 ∨ w = 0x20000000#32 ∨ w = 0x40000000#32 ∨
      (w.extractLsb' 28 4 = 0x3#4 ∧ w.extractLsb' 19 9 = 0#9 ∧ w.extractLsb' 16 2 ≠ 0b11#2))
    with rfl | rfl | rfl | ⟨hop, hrsv, hwc⟩
  · exact ⟨_, .ack⟩
  · exact ⟨_, .cancel⟩
  · exact ⟨_, .status⟩
  · obtain ⟨width, hwidth⟩ := exists_width_of_ne hwc
    obtain ⟨signed, hsigned⟩ := exists_signBit (w.extractLsb' 18 1)
    rw [eq_freadWord hop hrsv, hwidth, hsigned]
    exact ⟨_, .fread width signed _⟩

/-! ### The decoder of command words -/

/-- A legal word decodes to its command. -/
theorem LegalWord.decodeCtl_eq {w : Word} {i : Instr} (h : LegalWord w i) : decodeCtl w = i := by
  simp [decodeCtl, h.decodeFields_eq]

/-- Any other word decodes to `ILLEGAL` (R69). -/
theorem decodeCtl_illegal {w : Word} (h : legalCommand w = false) : decodeCtl w = .illegal w := by
  have hnone : decodeFields (CtlFields.ofWord w) = none := by
    rw [Option.eq_none_iff_forall_ne_some]
    intro i hi
    simp [(decodeFields_ofWord_eq_some.1 hi).legalCommand_eq_true] at h
  simp [decodeCtl, hnone]

/-- Everything a command word can decode to. -/
theorem decodeCtl_cases (w : Word) :
    LegalWord w (decodeCtl w) ∨ (legalCommand w = false ∧ decodeCtl w = .illegal w) := by
  cases h : legalCommand w with
  | true =>
    obtain ⟨i, hi⟩ := LegalWord.of_legalCommand h
    exact .inl (hi.decodeCtl_eq.symm ▸ hi)
  | false => exact .inr ⟨rfl, decodeCtl_illegal h⟩

/-- A legal word's command is well formed and has that word (R66, R67). -/
theorem LegalWord.wf_encode {w : Word} {i : Instr} (h : LegalWord w i) : i.wf = true ∧ encode i = .ctl w := by
  cases h with
  | ack | cancel | status => exact ⟨rfl, rfl⟩
  | fread width signed off => exact ⟨wf_freadForm width signed off, encode_freadForm width signed off⟩

/-- What a command word decodes to is well formed and has that word. -/
theorem wf_encode_decodeCtl (w : Word) : (decodeCtl w).wf = true ∧ encode (decodeCtl w) = .ctl w := by
  rcases decodeCtl_cases w with h | ⟨hw, h⟩
  · exact h.wf_encode
  · rw [h]
    exact ⟨by simp [Instr.wf, hw], rfl⟩

/-- The word of a `FREAD` form decodes to that form (R67). -/
@[simp] theorem decodeCtl_freadWord (width : Width) (signed : Bool) (off : Half) :
    decodeCtl (freadWord (signBit signed) width.code off) = freadForm width signed off :=
  (LegalWord.fread width signed off).decodeCtl_eq

/-! ### Encoding and decoding are inverse -/

/-- Settles O32, by the kind of the instruction. -/
theorem decodeOfEncode : Obligations.DecodeOfEncode := by
  unfold Obligations.DecodeOfEncode
  intro i hwf
  cases i using Instr.casesByKind with
  | rx st b => rw [encode_decodeRx, decode_rxKey]
  | ack | cancel | status => rfl
  | fread width signed off => rw [encode_freadForm, decode, decodeCtl_freadWord]
  | illegal w => exact congrArg Except.ok (decodeCtl_illegal (by simpa [Instr.wf] using hwf))

/-- An accepted key is the key of the state it names and of its byte (R64). -/
theorem decodeKey_ok {key : RxKey} {i : Instr} (h : decodeKey key = .ok i) :
    ∃ st b, key = rxKey st b ∧ i = decodeRx st b := by
  unfold decodeKey at h
  split at h
  case h_1 st hst =>
    cases h
    refine ⟨st, _, ?_, rfl⟩
    rw [rxKey, St.code_of_ofCode hst]
    exact (key_fields key).symm
  case h_2 => cases h

/-- Settles O33, by the format of the transfer. -/
theorem encodeOfDecode : Obligations.EncodeOfDecode := by
  unfold Obligations.EncodeOfDecode
  intro x i h
  cases x with
  | rx key =>
    obtain ⟨st, b, rfl, rfl⟩ := decodeKey_ok h
    exact ⟨wf_decodeRx st b, encode_decodeRx st b⟩
  | ctl w => cases h; exact wf_encode_decodeCtl w

/-! ### The decision list of R69 -/

/-- The codes 0x9 to 0xF name no state (R69). -/
theorem St.ofCode_reserved {c : BitVec 4} (h : 0x9#4 ≤ c) : St.ofCode c = none := by
  revert c; decide

/-- A word with nothing below its opcode is the fixed word of that opcode. -/
theorem op_and_rest_zero_iff {w : Word} {op : BitVec 4} :
    w.extractLsb' 28 4 = op ∧ w.extractLsb' 0 28 = 0#28 ↔ w = (op ++ 0#28 : BitVec (4 + 28)) := by
  constructor
  · rintro ⟨rfl, hrest⟩
    rw [← hrest, BitVec.extractLsb'_append_extractLsb'_eq_extractLsb' (by omega)]
    simp
  · rintro rfl
    exact ⟨(BitVec.extractLsb'_append_eq_of_le (by omega)).trans BitVec.extractLsb'_eq_self,
      (BitVec.extractLsb'_append_eq_of_add_le (by omega)).trans BitVec.extractLsb'_eq_self⟩

/-- The width R69's list reads from the width code of a `FREAD` word. -/
theorem width_of_code (width : Width) :
    (if width.code = 0b00#2 then Width.one else if width.code = 0b01#2 then .two else .four) = width := by
  cases width <;> rfl

/-- The `sgn` bit of a `FREAD` word says whether the form is signed (R67). -/
theorem freadWord_signed (signed : Bool) (wc : BitVec 2) (off : Half) :
    (freadWord (signBit signed) wc off).getLsbD 18 = signed := by
  obtain ⟨-, -, hsgn, -, -⟩ := freadWord_fields (signBit signed) wc off
  have h := congrArg (BitVec.getLsbD · 0) hsgn
  cases signed <;> simpa [BitVec.getLsbD_extractLsb', signBit] using h

/-- A word that no line of R69's list but the last fits (R68). -/
theorem legalCommand_eq_false_iff {w : Word} : legalCommand w = false ↔
    ¬ (w.extractLsb' 28 4 = 0x1#4 ∧ w.extractLsb' 0 28 = 0#28) ∧
    ¬ (w.extractLsb' 28 4 = 0x2#4 ∧ w.extractLsb' 0 28 = 0#28) ∧
    ¬ (w.extractLsb' 28 4 = 0x4#4 ∧ w.extractLsb' 0 28 = 0#28) ∧
    ¬ (w.extractLsb' 28 4 = 0x3#4 ∧ w.extractLsb' 19 9 = 0#9 ∧ w.extractLsb' 16 2 ≠ 0b11#2) := by
  simp only [op_and_rest_zero_iff, legalCommand]
  simp [and_assoc]

/-- R69's list for command words. -/
theorem decodeCtl_eq_list (w : Word) : decodeCtl w =
    if w.extractLsb' 28 4 = 0x1#4 ∧ w.extractLsb' 0 28 = 0#28 then .ack
    else if w.extractLsb' 28 4 = 0x2#4 ∧ w.extractLsb' 0 28 = 0#28 then .cancel
    else if w.extractLsb' 28 4 = 0x4#4 ∧ w.extractLsb' 0 28 = 0#28 then .status
    else if w.extractLsb' 28 4 = 0x3#4 ∧ w.extractLsb' 19 9 = 0#9 ∧ w.extractLsb' 16 2 ≠ 0b11#2 then
      freadForm (if w.extractLsb' 16 2 = 0b00#2 then .one else if w.extractLsb' 16 2 = 0b01#2 then .two else .four)
        (w.getLsbD 18) (w.extractLsb' 0 16)
    else .illegal w := by
  rcases decodeCtl_cases w with h | ⟨hw, h⟩
  · generalize decodeCtl w = i at h
    cases h with
    | ack | cancel | status => rfl
    | fread width signed off =>
      obtain ⟨hop, hrsv, -, hwc, hoff⟩ := freadWord_fields (signBit signed) width.code off
      simp only [hop, hrsv, hwc, hoff, width_of_code, freadWord_signed]
      simp
  · obtain ⟨hack, hcancel, hstatus, hfread⟩ := legalCommand_eq_false_iff.1 hw
    rw [h, if_neg hack, if_neg hcancel, if_neg hstatus, if_neg hfread]

/-- Settles O34, by what the word decodes to; a reserved state code names no state. -/
theorem commandDecodingIsTotal : Obligations.CommandDecodingIsTotal := by
  unfold Obligations.CommandDecodingIsTotal
  refine ⟨fun w => congrArg Except.ok (decodeCtl_eq_list w), fun key hkey => ?_⟩
  simp [decode, decodeKey, St.ofCode_reserved hkey]

/-! ### The opcode table -/

/-- Every instruction's transfer matches its row. -/
theorem tableRow (i : Instr) : Laws.TableRow.Statement i := by
  cases i with
  | rxWaitSync1 b => exact Laws.TableRow.rxWaitSync1 b
  | rxWaitSync2 b => exact Laws.TableRow.rxWaitSync2 b
  | rxClass b => exact Laws.TableRow.rxClass b
  | rxId b => exact Laws.TableRow.rxId b
  | rxLenLo b => exact Laws.TableRow.rxLenLo b
  | rxLenHi b => exact Laws.TableRow.rxLenHi b
  | rxPayload b => exact Laws.TableRow.rxPayload b
  | rxCkA b => exact Laws.TableRow.rxCkA b
  | rxCkB b => exact Laws.TableRow.rxCkB b
  | ack => exact Laws.TableRow.ack
  | cancel => exact Laws.TableRow.cancel
  | freadU1 off => exact Laws.TableRow.freadU1 off
  | freadI1 off => exact Laws.TableRow.freadI1 off
  | freadU2 off => exact Laws.TableRow.freadU2 off
  | freadI2 off => exact Laws.TableRow.freadI2 off
  | freadU4 off => exact Laws.TableRow.freadU4 off
  | freadI4 off => exact Laws.TableRow.freadI4 off
  | status => exact Laws.TableRow.status
  | illegal w => exact Laws.TableRow.illegal w

/-- A word matches the row of the instruction it decodes to. -/
theorem row_decodeCtl_matchesWord (w : Word) : (decodeCtl w).row.matchesWord w = true := by
  have h := tableRow (decodeCtl w)
  rwa [Laws.TableRow.Statement, (wf_encode_decodeCtl w).2] at h

/-- A key matches the row of the instruction it decodes to. -/
theorem row_decodeRx_matchesKey (st : St) (b : Byte) : (decodeRx st b).row.matchesKey (rxKey st b) = true := by
  have h := tableRow (decodeRx st b)
  rwa [Laws.TableRow.Statement, encode_decodeRx] at h

/-- The operand of a `FREAD` form is no part of its row. -/
theorem row_freadForm (width : Width) (signed : Bool) (off off' : Half) :
    (freadForm width signed off).row = (freadForm width signed off').row := by
  cases width <;> cases signed <;> rfl

/-- The byte of an `Rx` is no part of its row. -/
theorem row_decodeRx (st : St) (b b' : Byte) : (decodeRx st b).row = (decodeRx st b').row := by
  cases st <;> rfl

/-- A row that masks nothing matches its value only. -/
theorem eq_of_matchesWord {w value : Word} {mnemonic : String}
    (h : OpRow.matchesWord ⟨mnemonic, .ctl, value, 0xFFFFFFFF#32⟩ w = true) : w = value := by
  have hmask : w &&& BitVec.allOnes 32 = value := by simpa [OpRow.matchesWord] using h
  rwa [BitVec.and_allOnes] at hmask

/-- The row of a `FREAD` form asks for the upper half of the form's words (R67). -/
theorem matchesWord_freadForm (width : Width) (signed : Bool) (off : Half) (w : Word) :
    (freadForm width signed off).row.matchesWord w =
      (w &&& 0xFFFF0000#32 == freadWord (signBit signed) width.code 0#16) := by
  cases width <;> cases signed <;> rfl

/-- The row of a state's rule asks for the state's code (R64). -/
theorem matchesKey_decodeRx (st : St) (b : Byte) (key : RxKey) :
    (decodeRx st b).row.matchesKey key = (key.setWidth 32 &&& 0xF00#32 == st.code.setWidth 32 <<< 8) := by
  cases st <;> rfl

/-- A word whose offset is masked out keeps its upper half. -/
theorem eq_append_of_masked {w : Word} {upper : Half}
    (h : w &&& 0xFFFF0000#32 = (upper ++ 0#16 : BitVec (16 + 16))) :
    w = (upper ++ w.extractLsb' 0 16 : BitVec (16 + 16)) := by
  have hmask : BitVec.extractLsb' 16 16 0xFFFF0000#32 = BitVec.allOnes 16 := by decide
  have hupper := congrArg (BitVec.extractLsb' 16 16) h
  rw [BitVec.extractLsb'_and, hmask, BitVec.and_allOnes, BitVec.extractLsb'_append_eq_of_le (by omega)] at hupper
  have hupper : w.extractLsb' 16 16 = upper := hupper.trans BitVec.extractLsb'_eq_self
  rw [← hupper, BitVec.extractLsb'_append_extractLsb'_eq_extractLsb' (by omega)]
  simp

/-- The state code of a key whose byte is masked out. -/
theorem code_of_masked {key : RxKey} {code : BitVec 4}
    (h : key.setWidth 32 &&& 0xF00#32 = code.setWidth 32 <<< 8) : key.extractLsb' 8 4 = code := by
  apply BitVec.eq_of_getLsbD_eq
  intro i hi
  have hbit := congrArg (BitVec.getLsbD · (8 + i)) h
  interval_cases i <;> simpa using hbit

/-- A word that matches the row of a `FREAD` form is the form's word for its low half (R67). -/
theorem eq_freadWord_of_matches {w : Word} {width : Width} {signed : Bool} {off : Half}
    (h : (freadForm width signed off).row.matchesWord w = true) :
    w = freadWord (signBit signed) width.code (w.extractLsb' 0 16) := by
  rw [matchesWord_freadForm, beq_iff_eq] at h
  exact eq_append_of_masked h

/-- A key that matches the row of a state's rule is that state's key for its low byte (R64). -/
theorem eq_rxKey_of_matches {key : RxKey} {st : St} {b : Byte}
    (h : (decodeRx st b).row.matchesKey key = true) : key = rxKey st (key.extractLsb' 0 8) := by
  rw [matchesKey_decodeRx, beq_iff_eq] at h
  rw [rxKey, ← code_of_masked h]
  exact (key_fields key).symm

/-- A word that matches a row other than the catch-all's decodes to an instruction of that row. -/
theorem row_decodeCtl_of_matches {w : Word} {i : Instr} (hformat : i.row.format = .ctl)
    (hnot : i.row.mnemonic ≠ "ILLEGAL") (h : i.row.matchesWord w = true) : (decodeCtl w).row = i.row := by
  cases i using Instr.casesByKind with
  | rx st b => simp at hformat
  | ack | cancel | status => rw [eq_of_matchesWord h]; rfl
  | fread width signed off =>
    rw [eq_freadWord_of_matches h, decodeCtl_freadWord]
    exact row_freadForm width signed _ off
  | illegal w' => exact absurd rfl hnot

/-- Settles O35: what decodes to a row has the row's match and mask, and what matches a row is an encoding of it. -/
theorem opcodeTableDecidesDecoding : Obligations.OpcodeTableDecidesDecoding := by
  unfold Obligations.OpcodeTableDecidesDecoding
  refine ⟨fun w i hformat hnot => ⟨row_decodeCtl_of_matches hformat hnot, fun h => ?_⟩,
    fun key i hformat => ⟨fun h => ?_, fun ⟨j, hj, hrow⟩ => ?_⟩⟩
  · exact h ▸ row_decodeCtl_matchesWord w
  · cases i using Instr.casesByKind with
    | rx st b =>
      rw [eq_rxKey_of_matches h]
      exact ⟨_, decode_rxKey st _, row_decodeRx st _ b⟩
    | ack | cancel | status | illegal w => cases hformat
    | fread width signed off => simp at hformat
  · obtain ⟨st, b, rfl, rfl⟩ := decodeKey_ok hj
    exact hrow ▸ row_decodeRx_matchesKey st b

/-! ### Events -/

/-- A gated event is emitted, or the log stays as it is (R201). -/
theorem State.emitDiag_log_cases (s : State) (e : Event) : (s.emitDiag e).log = s.log ∨
    (s.cfg.diagEvents = true ∧ (s.emitDiag e).log = s.log ++ [e]) := by
  cases hd : s.cfg.diagEvents <;> simp [hd]

/-- What an `Rx` that goes on emits (R70): nothing, or an event R70's table gives it. -/
theorem perform_rx_event {b : Byte} {s t : State} (h : perform (.rx b) s = .next t) :
    t.log = s.log ∨ ∃ e : Event, t.log = s.log ++ [e] ∧ emittedBy e.code (.rx b) s := by
  cases hst : s.st <;> rw [perform_rx b hst] at h
  case waitSync1 | waitSync2 | cls | id | lenLo | lenHi => cases h; exact .inl (by simp)
  case payload => obtain ⟨-, rfl⟩ := execRxPayload_next h; exact .inl (by simp)
  case ckA =>
    rcases execRxCkA_next h with ⟨-, rfl⟩ | ⟨hb, rfl⟩
    · exact .inl rfl
    · exact (State.emitDiag_log_cases _ _).imp_right fun ⟨hd, hlog⟩ => ⟨_, hlog, b, rfl, hst, hb, hd⟩
  case ckB =>
    rcases execRxCkB_next h with ⟨hb, rfl⟩ | ⟨hb, rfl⟩
    · exact .inr ⟨_, rfl, b, rfl, hst, hb⟩
    · exact (State.emitDiag_log_cases _ _).imp_right fun ⟨hd, hlog⟩ => ⟨_, hlog, b, rfl, hst, hb, hd⟩

/-- A `FREAD` emits one of the three events R70's table gives it (R140). -/
theorem perform_freadForm_event {w : Word} {width : Width} {signed : Bool} {off : Half} {s t : State}
    (hw : decodeCtl w = freadForm width signed off) (h : perform (.ctl w) s = .next t) :
    ∃ e : Event, t.log = s.log ++ [e] ∧ emittedBy e.code (.ctl w) s := by
  have hexec : exec (decodeCtl w) s = .next t := h
  rw [hw, exec_freadForm] at hexec
  rcases State.fread_next hexec with ⟨hh, rfl⟩ | ⟨hh, ho, rfl⟩ | ⟨hh, ho, raw, -, rfl⟩
  · exact ⟨_, rfl, w, rfl, .inr ⟨hh, .inr ⟨width, signed, off, hw⟩⟩⟩
  · exact ⟨_, rfl, w, rfl, hh, width, signed, off, hw, ho⟩
  · exact ⟨_, rfl, hh, w, width, signed, off, rfl, hw, ho⟩

/-- What a command that goes on emits (R70): nothing, or an event R70's table gives it. -/
theorem perform_ctl_event {w : Word} {s t : State} (h : perform (.ctl w) s = .next t) :
    t.log = s.log ∨ ∃ e : Event, t.log = s.log ++ [e] ∧ emittedBy e.code (.ctl w) s := by
  rcases decodeCtl_cases w with hlegal | ⟨-, hw⟩
  · generalize hw : decodeCtl w = i at hlegal
    cases hlegal with
    | ack =>
      cases hh : s.hold with
      | true => cases (execAck_held hh).symm.trans h; exact .inl rfl
      | false => cases (execAck_noFrame hh).symm.trans h; exact .inr ⟨_, rfl, _, rfl, .inr ⟨hh, .inl hw⟩⟩
    | cancel => cases h; exact .inl rfl
    | status => cases h; exact .inr ⟨_, rfl, _, rfl, hw⟩
    | fread width signed off => exact .inr (perform_freadForm_event hw h)
  · have hexec : exec (decodeCtl w) s = .next t := h
    rw [hw] at hexec
    cases hexec
    exact .inr ⟨_, rfl, w, rfl, .inl hw⟩

/-- Settles O46, by the kind of the operation. -/
theorem eventsComeFromTheirOperations : Obligations.EventsComeFromTheirOperations := by
  unfold Obligations.EventsComeFromTheirOperations
  refine ⟨fun c => by cases c <;> rfl, fun op s t h => ?_⟩
  cases op with
  | rst => cases h; exact .inl rfl
  | rx b => exact perform_rx_event h
  | ctl w => exact perform_ctl_event h

/-! ### Written-out words and FieldSpecs -/

/-- Settles O36, by running the decoder. -/
theorem writtenOutWordsDecode : Obligations.WrittenOutWordsDecode := by
  unfold Obligations.WrittenOutWordsDecode
  exact ⟨rfl, rfl, rfl, rfl, rfl, rfl, rfl, rfl, rfl, rfl, rfl⟩

/-- Settles O37: the word of a FieldSpec is the `FREAD` word of its read width, which decodes to that form. -/
theorem fieldSpecMapsToOneWord : Obligations.FieldSpecMapsToOneWord := by
  unfold Obligations.FieldSpecMapsToOneWord
  refine fun f => ⟨fun hoff => ⟨?_, congrArg Except.ok (decodeCtl_freadWord _ _ _)⟩, fun hoff => ?_⟩
  · rw [FieldSpec.word, if_pos hoff]
    rfl
  · exact if_neg (Nat.not_le.2 hoff)

end Sys2Proof.Machine

/-! The family 40_frame_assembler.md: the nine `Rx` operations (R103 to R111), when a byte is accepted (R100, R115, R116), the checksum (R101), what the accumulators hold (R113), and which frames are delivered (R114, R118). -/

namespace Sys2Proof.Machine

open Claims (decodesFrom nextA nextB mapNext)

/-! ### The nine `Rx` operations -/

/-- A state's keys, and no others, decode to its rule (R64). -/
theorem decodesFrom_code (st : St) : decodesFrom st.code (decodeRx st) := by
  refine fun key b => ⟨fun h => ?_, fun h => h ▸ decode_rxKey st b⟩
  obtain ⟨-, hkey⟩ := encodeOfDecode (.rx key) (decodeRx st b) h
  rw [encode_decodeRx] at hkey
  exact (Transfer.rx.inj hkey).symm

/-- `CKUPD` sums modulo 256 into `ckA` (R102). -/
@[simp] theorem nextA_eq (s : State) (b : Byte) : nextA s b = s.ckA + b :=
  BitVec.eq_of_toNat_eq (by simp [nextA])

/-- `CKUPD` sums the new `ckA` modulo 256 into `ckB` (R102). -/
@[simp] theorem nextB_eq (s : State) (b : Byte) : nextB s b = s.ckB + (s.ckA + b) :=
  BitVec.eq_of_toNat_eq (by simp [nextB])

/-- Settles O4: the rule of `WAIT_SYNC1` is R103 as written. -/
theorem waitSync1Step : Obligations.WaitSync1Step := by
  unfold Obligations.WaitSync1Step
  exact ⟨decodesFrom_code .waitSync1, fun b s => rfl⟩

/-- Settles O5: the rule of `WAIT_SYNC2` is R104 as written. -/
theorem waitSync2Step : Obligations.WaitSync2Step := by
  unfold Obligations.WaitSync2Step
  exact ⟨decodesFrom_code .waitSync2, fun b s => rfl⟩

/-- Settles O6: the rule of `CLASS` writes the three registers and `st`. -/
theorem classStep : Obligations.ClassStep := by
  unfold Obligations.ClassStep
  exact ⟨decodesFrom_code .cls, fun b s => ⟨_, rfl, rfl⟩⟩

/-- Settles O7: the accumulators get R102's sums. -/
theorem idStep : Obligations.IdStep := by
  unfold Obligations.IdStep
  refine ⟨decodesFrom_code .id, fun b s => ⟨_, rfl, ?_⟩⟩
  simp [State.setSt, State.setMid, State.ckUpd, State.setCkA, State.setCkB, State.noteRead]

/-- Settles O8: the byte is zero-extended to the whole length. -/
theorem lenLoStep : Obligations.LenLoStep := by
  unfold Obligations.LenLoStep
  refine ⟨decodesFrom_code .lenLo, fun b s => ⟨_, rfl, ?_⟩⟩
  simp [State.setSt, State.setLen, State.ckUpd, State.setCkA, State.setCkB, State.noteRead]

/-- The number of a length completed with a second byte (R108). -/
theorem toNat_lengthCompleted (b : Byte) (len : Half) :
    (b ++ len.extractLsb' 0 8 : BitVec (8 + 8)).toNat = len.toNat % 256 + 256 * b.toNat := by
  have hlow : len.toNat % 2 ^ 8 < 2 ^ 8 := Nat.mod_lt _ (by decide)
  rw [BitVec.toNat_append, BitVec.extractLsb'_toNat, Nat.shiftRight_zero, ← Nat.shiftLeft_add_eq_or_of_lt hlow,
    Nat.shiftLeft_eq]
  omega

/-- The length is tested as a number (R108). -/
theorem afterLength_eq_toNat (len : Half) : afterLength len = if len.toNat = 0 then .ckA else .payload := by
  simp only [afterLength, ← BitVec.toNat_inj, BitVec.toNat_ofNat, Nat.zero_mod]

/-- Settles O9: the completed length is the number of its two bytes. -/
theorem lenHiStep : Obligations.LenHiStep := by
  unfold Obligations.LenHiStep
  refine ⟨decodesFrom_code .lenHi, fun b s => ⟨_, rfl, ?_⟩⟩
  rw [← toNat_lengthCompleted, BitVec.ofNat_toNat, BitVec.setWidth_eq, ← afterLength_eq_toNat]
  simp [State.setSt, State.setCnt, State.setLen, State.ckUpd, State.setCkA, State.setCkB, State.noteRead]

/-- A count below the last index is one more as a number too (R40). -/
theorem toNat_count_succ {cnt : Half} (h : cnt.toNat < 65535) : (cnt + 1#16).toNat = cnt.toNat + 1 :=
  BitVec.toNat_add_of_lt (by simp; omega)

/-- The new count is compared with the length as a number (R109). -/
theorem afterPayload_eq_toNat (cnt len : Half) :
    afterPayload cnt len = if cnt.toNat = len.toNat then .ckA else .payload := by
  simp only [afterPayload, BitVec.toNat_inj]

/-- Settles O10: `cnt` does not wrap, so the new count meets `len` as numbers do. -/
theorem payloadStep : Obligations.PayloadStep := by
  unfold Obligations.PayloadStep
  refine ⟨decodesFrom_code .payload, fun b s hcnt => ⟨_, execRxPayload_eq b hcnt, fun a => ?_, ?_⟩⟩
  · simp [Memory.read_write]
  · rw [← toNat_count_succ hcnt, BitVec.ofNat_toNat, BitVec.setWidth_eq, ← afterPayload_eq_toNat]
    simp [State.setSt, State.setCnt, State.setBuf, State.ckUpd, State.setCkA, State.setCkB, State.noteRead]

/-- A gated event changes the log only, and only in a build with `DIAG_EVENTS` (R201). -/
theorem State.emitDiag_eq (s : State) (e : Event) :
    s.emitDiag e = { s with log := if s.cfg.diagEvents = true then s.log ++ [e] else s.log } := by
  unfold State.emitDiag
  split <;> rfl

/-- Settles O11, by whether the byte matches. -/
theorem ckAStep : Obligations.CkAStep := by
  unfold Obligations.CkAStep
  refine ⟨decodesFrom_code .ckA, fun b s => ?_⟩
  by_cases hb : b = s.ckA
  · subst hb
    refine ⟨_, execRxCkA_match s, ?_⟩
    rw [if_pos rfl, if_neg fun h => h.1 rfl]
    rfl
  · refine ⟨_, execRxCkA_mismatch hb, ?_⟩
    simp only [ne_eq, hb, if_false, not_false_eq_true, true_and]
    rw [State.emitDiag_eq]
    rfl

/-- Settles O12, by whether the byte matches. -/
theorem ckBStep : Obligations.CkBStep := by
  unfold Obligations.CkBStep
  refine ⟨decodesFrom_code .ckB, fun b s => ?_⟩
  by_cases hb : b = s.ckB
  · subst hb
    exact ⟨_, execRxCkB_match s, fun _ => rfl, fun hne => absurd rfl hne⟩
  · refine ⟨_, execRxCkB_mismatch hb, fun heq => absurd heq hb, fun _ => ?_⟩
    rw [State.emitDiag_eq]
    rfl

/-! ### When a byte is accepted -/

/-- With no reset, no word and no byte that can be taken, a step takes nothing (R116, R100). -/
theorem State.take_parked {s : State} (hrst : s.rst = false) (hctl : s.ctl = []) (hrx : s.rx = [] ∨ s.hold = true) :
    s.take = none := by
  rcases hrx with hrx | hhold
  · simp [State.take, State.takeCtl, hrst, hctl, hrx]
  · simp [State.take, State.takeCtl, hrst, hctl, hhold]

/-- A step that takes nothing answers the same state (R216; log 7). -/
theorem step_of_take_none {s : State} (h : s.take = none) : step s = .next s := by
  simp [step, stepTaken, h]

/-- A run of one step more that goes on. -/
theorem run_succ_of_step {k : Nat} {s t : State} (h : step s = .next t) :
    Host.Core.run Sys2Proof.core (k + 1) s = Host.Core.run Sys2Proof.core k t := by
  have hcore : Sys2Proof.core.step s = .next t := h
  simp [Host.Core.run, hcore]

/-- A run whose first step faults. -/
theorem run_succ_of_fault {k : Nat} {s : State} {r : Fault} (h : step s = .fault r) :
    Host.Core.run Sys2Proof.core (k + 1) s = .fault r := by
  have hcore : Sys2Proof.core.step s = .fault r := h
  simp [Host.Core.run, hcore]

/-- A run whose first step is refused. -/
theorem run_succ_of_refused {k : Nat} {s : State} {r : Refusal} (h : step s = .refused r) :
    Host.Core.run Sys2Proof.core (k + 1) s = .refused r := by
  have hcore : Sys2Proof.core.step s = .refused r := h
  simp [Host.Core.run, hcore]

/-- Settles O41, by induction on the number of steps. -/
theorem parkedWithoutTransfers : Obligations.ParkedWithoutTransfers := by
  unfold Obligations.ParkedWithoutTransfers
  intro k s hrst hctl hrx
  induction k with
  | zero => rfl
  | succ k ih => exact (run_succ_of_step (step_of_take_none (State.take_parked hrst hctl hrx))).trans ih

/-- An `Rx` leaves the bytes still offered at the port. -/
theorem exec_rx_keepsPort {st : St} {b : Byte} {s t : State} (h : exec (decodeRx st b) s = .next t) :
    t.rx = s.rx := by
  cases st with
  | waitSync1 | waitSync2 | cls | id | lenLo | lenHi => cases h; simp
  | payload => obtain ⟨-, rfl⟩ := execRxPayload_next h; simp
  | ckA => rcases execRxCkA_next h with ⟨-, rfl⟩ | ⟨-, rfl⟩ <;> simp
  | ckB => rcases execRxCkB_next h with ⟨-, rfl⟩ | ⟨-, rfl⟩ <;> simp

/-- No operation touches the bytes still offered. -/
theorem perform_keepsPort {op : Operation} {s t : State} (h : perform op s = .next t) : t.rx = s.rx := by
  cases op with
  | rst => cases h; rfl
  | rx b => exact exec_rx_keepsPort h
  | ctl w =>
    rcases exec_command_next (decodeCtl_format w) h with ⟨-, -, rfl⟩ | ⟨-, rfl⟩ | hsame
    · rfl
    · rfl
    · rw [hsame]

/-- A step that accepts no byte leaves the bytes at the port (R100). -/
theorem step_keepsPort {s t : State} (hready : s.hold = true ∨ s.rst = true) (h : step s = .next t) :
    t.rx = s.rx := by
  rcases step_cases s with ⟨-, hpark⟩ | ⟨op, u, htake, hstep⟩
  · cases hpark.symm.trans h; rfl
  · have hport := perform_keepsPort (hstep.symm.trans h)
    rcases (State.take_some htake).2 with ⟨-, -, rfl⟩ | ⟨b, bs, -, hrst, hhold, -⟩ | ⟨w, ws, -, -, -, rfl | rfl⟩
    · exact hport
    · simp [hrst, hhold] at hready
    · exact hport
    · exact hport

/-- A step that ends the hand-off performed `Rst`, or a word that decodes to `ACK` or `CANCEL` (R100). -/
theorem step_endsHold {s t : State} (hhold : s.hold = true) (h : step s = .next t) (hfree : t.hold = false) :
    s.rst = true ∨ ∃ w ws, s.ctl = w :: ws ∧ (decodeCtl w = .ack ∨ decodeCtl w = .cancel) := by
  rcases step_cases s with ⟨-, hpark⟩ | ⟨op, u, htake, hstep⟩
  · cases hpark.symm.trans h
    simp [hhold] at hfree
  · have hu : u.hold = true := by rw [State.take_keeps htake]; exact hhold
    have hperform := hstep.symm.trans h
    rcases (State.take_some htake).2 with ⟨-, hrst, -⟩ | ⟨b, bs, -, -, hfree', -⟩ | ⟨w, ws, rfl, -, hctl, -⟩
    · exact .inl hrst
    · simp [hhold] at hfree'
    · refine .inr ⟨w, ws, hctl, ?_⟩
      by_contra hother
      have hkept := (perform_ctl_hold hperform).2 ⟨hu, not_or.1 hother⟩
      simp [hfree] at hkept

/-- Settles O40, from what a step can take and what the operation taken does. -/
theorem rxAcceptsOnlyWhenReady : Obligations.RxAcceptsOnlyWhenReady := by
  unfold Obligations.RxAcceptsOnlyWhenReady
  refine ⟨fun s t => step_keepsPort, fun s b bs hhold hrst hrx hctl => ?_, fun s t => step_endsHold⟩
  exact step_of_take (State.take_rx (by simp [State.rxReady, hhold, hrst]) hrx hctl)

/-! ### Chunks -/

/-- A field read does not see the bytes offered. -/
theorem State.fread_offerRx (w : Word) (off : Half) (n : Nat) (signed : Bool) (c : List Byte) (s : State) :
    (s.offerRx c).fread w off n signed = mapNext (State.offerRx c) (s.fread w off n signed) := by
  have hread : (s.offerRx c).memRead off.toNat n = s.memRead off.toNat n :=
    State.memRead_congr n fun _ _ _ => rfl
  cases hh : s.hold with
  | false => rw [State.fread_noFrame hh, State.fread_noFrame (s := s.offerRx c) hh]; rfl
  | true =>
    by_cases ho : s.len.toNat < off.toNat + n
    · rw [State.fread_outside hh ho, State.fread_outside (s := s.offerRx c) hh ho]; rfl
    · have hin : off.toNat + n ≤ s.len.toNat := Nat.not_lt.1 ho
      cases hr : s.memRead off.toNat n with
      | ok raw =>
        rw [State.fread_inside hh hin hr, State.fread_inside (s := s.offerRx c) hh hin (hread.trans hr)]; rfl
      | error f =>
        rw [State.fread_fault hh hin hr, State.fread_fault (s := s.offerRx c) hh hin (hread.trans hr)]; rfl

section OfferRx

variable (s : State) (c : List Byte)

@[simp] theorem State.setSt_offerRx (v : St) : (s.offerRx c).setSt v = (s.setSt v).offerRx c := rfl
@[simp] theorem State.setMid_offerRx (v : Byte) : (s.offerRx c).setMid v = (s.setMid v).offerRx c := rfl
@[simp] theorem State.setLen_offerRx (v : Half) : (s.offerRx c).setLen v = (s.setLen v).offerRx c := rfl
@[simp] theorem State.setCnt_offerRx (v : Half) : (s.offerRx c).setCnt v = (s.setCnt v).offerRx c := rfl
@[simp] theorem State.setBuf_offerRx (m : Memory) : (s.offerRx c).setBuf m = (s.setBuf m).offerRx c := rfl
@[simp] theorem State.noteRead_offerRx (r : Reg) : (s.offerRx c).noteRead r = (s.noteRead r).offerRx c := rfl
@[simp] theorem State.ckUpd_offerRx (b : Byte) : (s.offerRx c).ckUpd b = (s.ckUpd b).offerRx c := rfl

end OfferRx

/-- A gated event does not depend on the bytes offered. -/
theorem State.emitDiag_offerRx (s : State) (e : Event) (c : List Byte) :
    (s.offerRx c).emitDiag e = (s.emitDiag e).offerRx c := by
  rw [State.emitDiag_eq, State.emitDiag_eq]
  rfl

/-- A payload byte is stored alike whatever is offered. -/
theorem execRxPayload_offerRx (b : Byte) (c : List Byte) (s : State) :
    execRxPayload b (s.offerRx c) = mapNext (State.offerRx c) (execRxPayload b s) := by
  rcases Nat.lt_or_ge s.cnt.toNat payloadCap with hc | hc
  · rw [execRxPayload_eq b hc, execRxPayload_eq (s := s.offerRx c) b hc]
    simp [mapNext]
  · rw [execRxPayload_noSuchByte b hc, execRxPayload_noSuchByte (s := s.offerRx c) b hc]; rfl

/-- A checksum byte is compared alike whatever is offered (R110). -/
theorem execRxCkA_offerRx (b : Byte) (c : List Byte) (s : State) :
    execRxCkA b (s.offerRx c) = mapNext (State.offerRx c) (execRxCkA b s) := by
  by_cases hb : b = s.ckA
  · subst hb; rw [execRxCkA_match]; exact execRxCkA_match (s.offerRx c)
  · rw [execRxCkA_mismatch hb, execRxCkA_mismatch (s := s.offerRx c) hb]
    exact congrArg Host.Outcome.next (State.emitDiag_offerRx ((s.noteRead .ckA).setSt .waitSync1) _ c)

/-- A checksum byte is compared alike whatever is offered (R111). -/
theorem execRxCkB_offerRx (b : Byte) (c : List Byte) (s : State) :
    execRxCkB b (s.offerRx c) = mapNext (State.offerRx c) (execRxCkB b s) := by
  by_cases hb : b = s.ckB
  · subst hb; rw [execRxCkB_match]; exact execRxCkB_match (s.offerRx c)
  · rw [execRxCkB_mismatch hb, execRxCkB_mismatch (s := s.offerRx c) hb]
    exact congrArg Host.Outcome.next (State.emitDiag_offerRx ((s.setSt .waitSync1).noteRead .ckB) _ c)

/-- `ACK` does not depend on the bytes offered. -/
theorem execAck_offerRx (c : List Byte) (s : State) :
    execAck (s.offerRx c) = mapNext (State.offerRx c) (execAck s) := by
  cases hh : s.hold with
  | true => rw [execAck_held hh]; exact execAck_held (s := s.offerRx c) hh
  | false => rw [execAck_noFrame hh]; exact execAck_noFrame (s := s.offerRx c) hh

/-- No instruction sees the bytes offered. -/
theorem exec_offerRx (i : Instr) (c : List Byte) (s : State) :
    exec i (s.offerRx c) = mapNext (State.offerRx c) (exec i s) := by
  cases i with
  | rxWaitSync1 b | rxWaitSync2 b | rxClass b | cancel | status | illegal w => rfl
  | rxId b | rxLenLo b | rxLenHi b => simp [exec, execRxId, execRxLenLo, execRxLenHi, mapNext]
  | rxPayload b => exact execRxPayload_offerRx b c s
  | rxCkA b => exact execRxCkA_offerRx b c s
  | rxCkB b => exact execRxCkB_offerRx b c s
  | ack => exact execAck_offerRx c s
  | freadU1 off | freadI1 off | freadU2 off | freadI2 off | freadU4 off | freadI4 off =>
    exact State.fread_offerRx _ off _ _ c s

/-- No operation sees the bytes offered behind the one it accepts. -/
theorem perform_offerRx (op : Operation) (c : List Byte) (s : State) :
    perform op (s.offerRx c) = mapNext (State.offerRx c) (perform op s) := by
  cases op with
  | rst => rfl
  | rx b => exact exec_offerRx (decodeRx s.st b) c s
  | ctl w => exact exec_offerRx (decodeCtl w) c s

/-- The word taken does not depend on the bytes offered. -/
theorem State.takeCtl_offerRx (c : List Byte) (s : State) :
    (s.offerRx c).takeCtl = s.takeCtl.map (Prod.map id (State.offerRx c)) := by
  unfold State.takeCtl
  rw [State.offerRx_ctl]
  cases s.ctl <;> rfl

/-- Behind a byte already offered, further bytes do not change what a step takes (R48). -/
theorem State.take_offerRx {s : State} (c : List Byte) (hrx : s.rx ≠ []) :
    (s.offerRx c).take = s.take.map (Prod.map id (State.offerRx c)) := by
  obtain ⟨b, bs, hb⟩ := List.exists_cons_of_ne_nil hrx
  cases hrst : s.rst with
  | true => simp [State.take, hrst]; rfl
  | false =>
    cases hhold : s.hold with
    | true => simp [State.take, hrst, hhold, State.takeCtl_offerRx]
    | false =>
      have hready : s.rxReady = true := by simp [State.rxReady, hhold, hrst]
      have hbc : (s.offerRx c).rx = b :: (bs ++ c) := by simp [hb]
      cases hctl : s.ctl with
      | nil =>
        rw [State.take_rx hready hb hctl, State.take_rx (s := s.offerRx c) hready hbc hctl]
        rfl
      | cons w ws =>
        rw [State.take_contested hready hb hctl, State.take_contested (s := s.offerRx c) hready hbc hctl]
        rw [State.offerRx_arb]
        cases Config.rxFirst s.arb <;> rfl

/-- Behind a byte already offered, further bytes do not change what a step does. -/
theorem step_offerRx {s : State} (c : List Byte) (hrx : s.rx ≠ []) :
    step (s.offerRx c) = mapNext (State.offerRx c) (step s) := by
  have htake := State.take_offerRx c hrx
  rcases step_cases s with ⟨hnone, hpark⟩ | ⟨op, u, hsome, hstep⟩
  · rw [hpark]
    exact step_of_take_none (by rw [htake, hnone]; rfl)
  · rw [hstep, ← perform_offerRx]
    exact step_of_take (by rw [htake, hsome]; rfl)

/-- A step accepts at most one byte. -/
theorem step_rx_length {s t : State} (h : step s = .next t) : s.rx.length ≤ t.rx.length + 1 := by
  rcases step_cases s with ⟨-, hpark⟩ | ⟨op, u, htake, hstep⟩
  · cases hpark.symm.trans h
    omega
  · rw [perform_keepsPort (hstep.symm.trans h)]
    rcases (State.take_some htake).2 with ⟨-, -, rfl⟩ | ⟨b, bs, -, -, -, hrx, rfl | rfl⟩ | ⟨w, ws, -, -, -, rfl | rfl⟩
    · simp
    · simp [hrx]
    · simp [hrx]
    · simp
    · simp

/-- As long as there is a byte for each step, bytes offered behind them do not change the run. -/
theorem run_offerRx (c : List Byte) (n : Nat) : ∀ {s : State}, n ≤ s.rx.length →
    Host.Core.run Sys2Proof.core n (s.offerRx c) =
      mapNext (State.offerRx c) (Host.Core.run Sys2Proof.core n s) := by
  induction n with
  | zero => intro s _; rfl
  | succ n ih =>
    intro s hn
    have hrx : s.rx ≠ [] := by rintro hnil; simp [hnil] at hn
    have hstep := step_offerRx c hrx
    cases hs : step s with
    | next t =>
      rw [hs] at hstep
      have hlen := step_rx_length hs
      rw [run_succ_of_step hs, run_succ_of_step hstep]
      exact ih (by omega)
    | fault r =>
      rw [hs] at hstep
      rw [run_succ_of_fault hs, run_succ_of_fault hstep]
      rfl
    | refused r =>
      rw [hs] at hstep
      rw [run_succ_of_refused hs, run_succ_of_refused hstep]
      rfl

/-- Settles O42: the first chunk has a byte for each of its steps. -/
theorem chunkBoundariesAreInvisible : Obligations.ChunkBoundariesAreInvisible := by
  unfold Obligations.ChunkBoundariesAreInvisible
  intro s c₁ c₂
  have hchunks : s.offerRx (c₁ ++ c₂) = (s.offerRx c₁).offerRx c₂ := by simp [State.offerRx]
  rw [hchunks]
  exact run_offerRx c₂ c₁.length (by simp)

/-! ### The checksum function -/

/-- The sum of the bytes, each weighted with its place from the end, the last with 1 (R101). -/
def weightedSum : List Byte → Nat
  | [] => 0
  | x :: xs => (xs.length + 1) * x.toNat + weightedSum xs

/-- The weight of the byte at index `j` is the number of bytes from it to the end. -/
theorem weightedSum_eq_mapIdx (l : List Byte) :
    weightedSum l = (l.mapIdx fun j x => (l.length - j) * x.toNat).sum := by
  induction l with
  | nil => rfl
  | cons x xs ih => simp [weightedSum, ih, List.mapIdx_cons]

/-- Folding from any pair: `a` adds the sum of the bytes, `b` the weighted sum and the first `a` once for each byte. -/
theorem foldl_ckNext (l : List Byte) (a b : Byte) : l.foldl ckNext (a, b) =
    (a + l.sum, b + BitVec.ofNat 8 l.length * a + BitVec.ofNat 8 (weightedSum l)) := by
  induction l generalizing a b with
  | nil => simp [weightedSum]
  | cons x xs ih =>
    have hone : BitVec.ofNat 8 1 = 1 := rfl
    simp only [List.foldl_cons, ckNext, ih, List.sum_cons, List.length_cons, weightedSum, BitVec.ofNat_add,
      BitVec.ofNat_mul, BitVec.ofNat_toNat, BitVec.setWidth_eq, hone]
    ext1
    · exact add_assoc a x xs.sum
    · dsimp only
      ring

/-- Seeding with the first byte is folding it in from zero (R101). -/
theorem ck_eq_foldl_zero (s0 : Byte) (rest : List Byte) : ck s0 rest = (s0 :: rest).foldl ckNext (0#8, 0#8) := by
  simp [ck, ckNext]

/-- One byte more is folded in last (R101). -/
theorem ck_append (s0 : Byte) (rest : List Byte) (x : Byte) : ck s0 (rest ++ [x]) = ckNext (ck s0 rest) x := by
  simp [ck]

/-- The first checksum byte is the sum of the bytes. -/
theorem ck_fst (s0 : Byte) (rest : List Byte) : (ck s0 rest).1 = (s0 :: rest).sum := by
  rw [ck_eq_foldl_zero, foldl_ckNext]
  simp

/-- The second checksum byte is the weighted sum of the bytes. -/
theorem ck_snd (s0 : Byte) (rest : List Byte) : (ck s0 rest).2 = BitVec.ofNat 8 (weightedSum (s0 :: rest)) := by
  rw [ck_eq_foldl_zero, foldl_ckNext]
  simp

/-- Summed modulo 256 (R102). -/
theorem toNat_sum (l : List Byte) : l.sum.toNat = (l.map BitVec.toNat).sum % 256 := by
  induction l with
  | nil => rfl
  | cons x xs ih => simp [ih]

/-- Settles O13: the recursion is the fold's, and the closed forms are the sums it computes from zero. -/
theorem checksumClosedForms : Obligations.ChecksumClosedForms := by
  unfold Obligations.ChecksumClosedForms
  refine fun s0 rest => ⟨rfl, fun x => ?_, ck_eq_foldl_zero s0 rest, ?_, ?_⟩
  · rw [ck_append]
    exact ⟨BitVec.toNat_add _ _, BitVec.toNat_add _ _⟩
  · rw [ck_fst, toNat_sum]
  · rw [ck_snd, BitVec.toNat_ofNat, weightedSum_eq_mapIdx]
    rfl

/-! ### The history of covered bytes -/

/-- The two length bytes of a 16-bit length (R61). -/
theorem lengthBytes (len : Half) :
    len.setWidth 8 = BitVec.ofNat 8 len.toNat ∧ len.extractLsb' 8 8 = BitVec.ofNat 8 (len.toNat / 256) := by
  constructor <;> apply BitVec.eq_of_toNat_eq <;> simp [BitVec.extractLsb'_toNat, Nat.shiftRight_eq_div_pow]

/-- The length completed with a second byte has that byte above the low byte it had (R108). -/
theorem lengthBytes_completed (b : Byte) (len : Half) :
    (b ++ len.extractLsb' 0 8 : BitVec (8 + 8)).setWidth 8 = len.setWidth 8 ∧
    (b ++ len.extractLsb' 0 8 : BitVec (8 + 8)).extractLsb' 8 8 = b :=
  ⟨BitVec.setWidth_append_eq_right, (BitVec.extractLsb'_append_eq_of_le (by omega)).trans BitVec.extractLsb'_eq_self⟩

/-- Received behind a payload in the buffer, one byte more continues it (R109). -/
theorem holdsPayload_write {m : Memory} {p : List Byte} {a : Nat} (hp : holdsPayload m p) (ha : p.length = a)
    (b : Byte) : holdsPayload (m.write a b) (p ++ [b]) := by
  subst ha
  intro k hk
  rw [Memory.read_write]
  split
  case isTrue hlast => subst hlast; simp
  case isFalse hbefore =>
    have hin : k < p.length := by simp at hk; omega
    rw [List.getElem_append_left hin]
    exact hp k hin

/-- The accumulators are the checksum of the history, which begins with the class byte (R113). -/
def SumsOf (s : State) (h : List Byte) : Prop := ∃ rest, h = s.cls :: rest ∧ (s.ckA, s.ckB) = ck s.cls rest

/-- `CKUPD` keeps the accumulators the checksum of the history it extends (R102). -/
theorem SumsOf.append {s t : State} {h : List Byte} {b : Byte} (hs : SumsOf s h) (hcls : t.cls = s.cls)
    (hA : t.ckA = s.ckA + b) (hB : t.ckB = s.ckB + (s.ckA + b)) : SumsOf t (h ++ [b]) := by
  obtain ⟨rest, rfl, hck⟩ := hs
  refine ⟨rest ++ [b], by rw [hcls]; rfl, ?_⟩
  rw [hcls, ck_append, ← hck, hA, hB]
  rfl

section MeetsAccInv

variable {s : State} {h q : List Byte}

/-- Before the class byte R113 says nothing. -/
theorem AccInv.of_early (hst : rank s.st ≤ 2) : AccInv s h :=
  ⟨fun _ => by omega, fun h => by simp [h] at hst, fun h => by simp [h] at hst, fun h => by simp [h] at hst,
    fun h => by simp [h] at hst, fun _ => by omega⟩

/-- After the class byte, the history is that byte. -/
theorem AccInv.of_id (hst : s.st = .id) (hsum : SumsOf s h) (hh : h = [s.cls]) : AccInv s h :=
  ⟨fun _ => hsum, fun _ => hh, by simp [hst], by simp [hst], by simp [hst], by simp [hst]⟩

/-- After the id byte, the history is class and id. -/
theorem AccInv.of_lenLo (hst : s.st = .lenLo) (hsum : SumsOf s h) (hh : h = [s.cls, s.mid]) : AccInv s h :=
  ⟨fun _ => hsum, by simp [hst], fun _ => hh, by simp [hst], by simp [hst], by simp [hst]⟩

/-- After the first length byte, `len` is that byte. -/
theorem AccInv.of_lenHi (hst : s.st = .lenHi) (hsum : SumsOf s h) (hh : h = [s.cls, s.mid, s.len.setWidth 8])
    (hlen : s.len.toNat < 256) : AccInv s h :=
  ⟨fun _ => hsum, by simp [hst], by simp [hst], fun _ => ⟨hh, hlen⟩, by simp [hst], by simp [hst]⟩

/-- The covered bytes once the length is known: class, id, the two bytes of `len`, and the payload so far. -/
def headedBy (s : State) (q : List Byte) : List Byte :=
  s.cls :: s.mid :: s.len.setWidth 8 :: s.len.extractLsb' 8 8 :: q

/-- With the whole payload received, these are the covered bytes of the frame (R61). -/
theorem headedBy_eq_coveredTail (hq : q.length = s.len.toNat) : headedBy s q = s.cls :: coveredTail s.mid q := by
  obtain ⟨hlo, hhi⟩ := lengthBytes s.len
  rw [headedBy, coveredTail, hq, hlo, hhi]

/-- At the checksum bytes, the whole payload has been received. -/
theorem AccInv.of_checksum (hst : 7 ≤ rank s.st) (hsum : SumsOf s h)
    (hh : ∃ p, h = s.cls :: coveredTail s.mid p ∧ p.length = s.len.toNat ∧ holdsPayload s.buf p) : AccInv s h :=
  ⟨fun _ => hsum, fun h => by simp [h] at hst, fun h => by simp [h] at hst, fun h => by simp [h] at hst,
    fun h => by simp [h] at hst, fun _ => hh⟩

/-- Where `cnt` payload bytes have been received, the payload goes on or, with `len` of them, is whole (R108, R109). -/
theorem AccInv.of_received (hst : s.st = afterPayload s.cnt s.len) (hsum : SumsOf s h) (hh : h = headedBy s q)
    (hq : q.length = s.cnt.toNat) (hcnt : s.cnt.toNat ≤ s.len.toNat) (hbuf : holdsPayload s.buf q) : AccInv s h := by
  unfold afterPayload at hst
  split at hst
  case isTrue hlast =>
    have hwhole : q.length = s.len.toNat := hlast ▸ hq
    exact AccInv.of_checksum (by simp [hst]) hsum ⟨q, hh.trans (headedBy_eq_coveredTail hwhole), hwhole, hbuf⟩
  case isFalse hmore =>
    have hlt : s.cnt.toNat < s.len.toNat := lt_of_le_of_ne hcnt (BitVec.toNat_ne_iff_ne.2 hmore)
    exact ⟨fun _ => hsum, by simp [hst], by simp [hst], by simp [hst], fun _ => ⟨q, hh, hq, hlt, hbuf⟩,
      by simp [hst]⟩

end MeetsAccInv

section KeepsAccInv

variable {s t : State} {h : List Byte} {b : Byte}

/-- The class byte begins a history (R105). -/
theorem AccInv.after_class (hx : execRxClass b s = .next t) : AccInv t [b] := by
  cases hx
  exact AccInv.of_id rfl ⟨[], rfl, rfl⟩ rfl

/-- The id byte (R106). -/
theorem AccInv.after_id (hi : AccInv s h) (hst : s.st = .id) (hx : execRxId b s = .next t) :
    AccInv t (h ++ [b]) := by
  obtain ⟨hsum, hh, -⟩ := hi
  cases hx
  exact AccInv.of_lenLo rfl (SumsOf.append (hsum (by simp [hst])) (by simp) (by simp) (by simp)) (by rw [hh hst]; rfl)

/-- The first length byte (R107). -/
theorem AccInv.after_lenLo (hi : AccInv s h) (hst : s.st = .lenLo) (hx : execRxLenLo b s = .next t) :
    AccInv t (h ++ [b]) := by
  obtain ⟨hsum, -, hh, -⟩ := hi
  cases hx
  refine AccInv.of_lenHi rfl (SumsOf.append (hsum (by simp [hst])) (by simp) (by simp) (by simp)) ?_ ?_
  · simp [hh hst]
  · simp; omega

/-- The second length byte; no payload byte has been received (R108). -/
theorem AccInv.after_lenHi (hi : AccInv s h) (hst : s.st = .lenHi) (hx : execRxLenHi b s = .next t) :
    AccInv t (h ++ [b]) := by
  obtain ⟨hsum, -, -, hh, -⟩ := hi
  obtain ⟨hh, -⟩ := hh hst
  cases hx
  obtain ⟨hlo, hhi⟩ := lengthBytes_completed b s.len
  refine AccInv.of_received (q := []) (by simp [afterLength_eq])
    (SumsOf.append (hsum (by simp [hst])) (by simp) (by simp) (by simp)) ?_ (by simp) (by simp)
    (fun k hk => absurd hk (Nat.not_lt_zero k))
  simpa [hh, headedBy] using And.intro hlo.symm hhi.symm

/-- A payload byte (R109). -/
theorem AccInv.after_payload (hi : AccInv s h) (hst : s.st = .payload) (hx : execRxPayload b s = .next t) :
    AccInv t (h ++ [b]) := by
  obtain ⟨hsum, -, -, -, hh, -⟩ := hi
  obtain ⟨q, hhead, hq, hlt, hbuf⟩ := hh hst
  obtain ⟨-, rfl⟩ := execRxPayload_next hx
  have hsucc : (s.cnt + 1#16).toNat = s.cnt.toNat + 1 := toNat_count_succ (by omega)
  refine AccInv.of_received (q := q ++ [b]) (by simp)
    (SumsOf.append (hsum (by simp [hst])) (by simp) (by simp) (by simp)) ?_ ?_ ?_ ?_
  · simp [hhead, headedBy]
  · simp [hsucc, hq]
  · simpa [hsucc] using hlt
  · simpa using holdsPayload_write hbuf hq b

/-- A checksum byte changes no register of the frame (R110). -/
theorem AccInv.after_ckA (hi : AccInv s h) (hst : s.st = .ckA) (hx : execRxCkA b s = .next t) : AccInv t h := by
  obtain ⟨hsum, -, -, -, -, hh⟩ := hi
  rcases execRxCkA_next hx with ⟨-, rfl⟩ | ⟨-, rfl⟩
  · exact AccInv.of_checksum (by simp) (hsum (by simp [hst])) (hh (by simp [hst]))
  · exact AccInv.of_early (by simp)

/-- Every byte received keeps R113. -/
theorem AccInv.of_exec_rx (hi : AccInv s h) (hx : exec (decodeRx s.st b) s = .next t) :
    AccInv t (coveredAfter (.rx b) s h) := by
  cases hst : s.st <;> rw [hst] at hx <;> simp only [coveredAfter, hst]
  case waitSync1 | waitSync2 => cases hx; exact AccInv.of_early (by rw [State.setSt_st]; split_ifs <;> simp)
  case cls => exact AccInv.after_class hx
  case id => exact hi.after_id hst hx
  case lenLo => exact hi.after_lenLo hst hx
  case lenHi => exact hi.after_lenHi hst hx
  case payload => exact hi.after_payload hst hx
  case ckA => exact hi.after_ckA hst hx
  case ckB =>
    rcases execRxCkB_next hx with ⟨-, rfl⟩ | ⟨-, rfl⟩ <;> exact AccInv.of_early (by simp)

end KeepsAccInv

/-- Every decoded command keeps R113. -/
theorem AccInv.of_exec_command {i : Instr} {s t : State} {h : List Byte} (hi : AccInv s h)
    (hf : i.row.format = .ctl) (hx : exec i s = .next t) : AccInv t h := by
  rcases exec_command_next hf hx with ⟨-, -, rfl⟩ | ⟨-, rfl⟩ | hsame
  · exact hi
  · exact AccInv.of_early (by simp)
  · rw [hsame]; exact hi

/-- Settles O57, by the kind of the operation; a byte by the state it is received in. -/
theorem accumulatorsAreTheChecksum : Obligations.AccumulatorsAreTheChecksum := by
  unfold Obligations.AccumulatorsAreTheChecksum
  refine ⟨fun op s t h hi hx => ?_, fun cfg => AccInv.of_early (Nat.zero_le 2)⟩
  cases op with
  | rst => cases hx; exact AccInv.of_early (Nat.zero_le 2)
  | rx b => exact hi.of_exec_rx hx
  | ctl w => exact hi.of_exec_command (decodeCtl_format w) hx

/-! ### Commands between the bytes of a frame -/

/-- What a quiet command leaves alone: the FSR's registers and buffer, and the events of the `Rx` steps. -/
structure Undisturbed (s t : State) : Prop where
  fsr : SameFsr s t
  events : t.rxEvents = s.rxEvents

/-- No command emits an event of the `Rx` steps (R70). -/
theorem fromRx_of_command {c : EvCode} {w : Word} {s : State} (h : Claims.emittedBy c (.ctl w) s) :
    c.fromRx = false := by
  cases c with
  | frame | ckaFail | ckbFail => obtain ⟨b, hop, -⟩ := h; cases hop
  | field | status | cmdErr | fieldOob => rfl

/-- A quiet command disturbs no frame, assembled or held. -/
theorem perform_quiet_ctl_undisturbed {w : Word} {s t : State} (hq : (Operation.ctl w).quiet = true)
    (h : perform (.ctl w) s = .next t) : Undisturbed s t := by
  refine ⟨perform_quiet_ctl hq h, ?_⟩
  rcases perform_ctl_event h with hlog | ⟨e, hlog, he⟩
  · simp [State.rxEvents, hlog]
  · simp [State.rxEvents, hlog, fromRx_of_command he]

/-- The bytes of a held frame, if one is held, hold values. -/
def State.heldReadable (s : State) : Prop := s.hold = true → ∀ k, k < s.len.toNat → (s.buf.read k).isSome

/-- Every field read goes on where the bytes of a held frame hold values (R32). -/
theorem State.heldReadable.fread_goesOn {s : State} (hr : s.heldReadable) (w : Word) (off : Half) (n : Nat)
    (signed : Bool) : ∃ t, s.fread w off n signed = .next t := by
  cases hh : s.hold with
  | false => exact ⟨_, State.fread_noFrame hh⟩
  | true =>
    by_cases ho : s.len.toNat < off.toNat + n
    · exact ⟨_, State.fread_outside hh ho⟩
    · have hin : off.toNat + n ≤ s.len.toNat := Nat.not_lt.1 ho
      obtain ⟨raw, hraw⟩ := State.memRead_completes n (hin.trans (toNat_le_payloadCap s.len))
        fun k _ hk => hr hh k (hk.trans_le hin)
      exact ⟨_, State.fread_inside hh hin hraw⟩

/-- Every command goes on where the bytes of a held frame hold values. -/
theorem State.heldReadable.perform_ctl_goesOn {s : State} (hr : s.heldReadable) (w : Word) :
    ∃ t, perform (.ctl w) s = .next t := by
  show ∃ t, exec (decodeCtl w) s = .next t
  rcases decodeCtl_cases w with hlegal | ⟨-, hw⟩
  · generalize decodeCtl w = i at hlegal
    cases hlegal with
    | ack | cancel | status => exact ⟨_, rfl⟩
    | fread width signed off => rw [exec_freadForm]; exact hr.fread_goesOn _ off _ signed
  · rw [hw]
    exact ⟨_, rfl⟩

/-! ### Feeding bytes, with quiet commands between them -/

/-- What may be said of the FSR while it waits for a byte: quiet commands go on and leave it true. -/
structure Stable (P : State → Prop) : Prop where
  keeps : ∀ {s t}, P s → Undisturbed s t → P t
  readable : ∀ {s}, P s → s.heldReadable

/-- From every state with `P`, operations that bring the bytes `bs` and are else quiet commands run, to a state with `Q`. -/
def Feeds (P : State → Prop) (bs : List Byte) (Q : State → Prop) : Prop :=
  ∀ (s : State) (ops : List Operation), P s → (∀ op ∈ ops, op.quiet = true) → rxBytes ops = bs →
    ∃ t, Run s ops t ∧ Q t

/-- Runs compose. -/
theorem Run.append {s t u : State} {ops₁ ops₂ : List Operation} (h₁ : Run s ops₁ t) (h₂ : Run t ops₂ u) :
    Run s (ops₁ ++ ops₂) u := by
  induction h₁ with
  | nil s => exact h₂
  | cons hen hop _ ih => exact .cons hen hop (ih h₂)

section Feeds

variable {P Q R : State → Prop} {b : Byte} {bs cs : List Byte}

/-- With no byte, there are quiet commands only. -/
theorem Feeds.wait (hP : Stable P) : Feeds P [] P := by
  intro s ops hs hq hrx
  induction ops generalizing s with
  | nil => exact ⟨s, .nil s, hs⟩
  | cons op ops ih =>
    obtain ⟨hquiet, hrest⟩ := List.forall_mem_cons.1 hq
    cases op with
    | rst => cases hquiet
    | rx b => cases hrx
    | ctl w =>
      obtain ⟨t, ht⟩ := (hP.readable hs).perform_ctl_goesOn w
      obtain ⟨u, hrun, hu⟩ := ih t (hP.keeps hs (perform_quiet_ctl_undisturbed hquiet ht)) hrest hrx
      exact ⟨u, .cons rfl ht hrun, hu⟩

/-- Byte sequences compose. -/
theorem Feeds.append (h₁ : Feeds P bs Q) (h₂ : Feeds Q cs R) : Feeds P (bs ++ cs) R := by
  intro s ops hs hq hrx
  obtain ⟨ops₁, ops₂, rfl, hrx₁, hrx₂⟩ := List.filterMap_eq_append_iff.1 hrx
  obtain ⟨hq₁, hq₂⟩ := List.forall_mem_append.1 hq
  obtain ⟨t, hrun₁, ht⟩ := h₁ s ops₁ hs hq₁ hrx₁
  obtain ⟨u, hrun₂, hu⟩ := h₂ t ops₂ ht hq₂ hrx₂
  exact ⟨u, hrun₁.append hrun₂, hu⟩

/-- The conclusion may be weakened. -/
theorem Feeds.weaken (h : Feeds P bs Q) (hQR : ∀ s, Q s → R s) : Feeds P bs R := by
  intro s ops hs hq hrx
  obtain ⟨t, hrun, ht⟩ := h s ops hs hq hrx
  exact ⟨t, hrun, hQR t ht⟩

/-- One byte, with quiet commands before and after it. -/
theorem Feeds.byte (hP : Stable P) (hQ : Stable Q)
    (h : ∀ s, P s → s.hold = false ∧ ∃ t, perform (.rx b) s = .next t ∧ Q t) : Feeds P [b] Q := by
  intro s ops hs hq hrx
  obtain ⟨before, op, after, rfl, hbefore, hop, hafter⟩ := List.filterMap_eq_cons_iff.1 hrx
  obtain rfl : op = .rx b := by
    cases op with
    | rx b' => simpa using hop
    | ctl w | rst => cases hop
  obtain ⟨hq₁, hq₂⟩ := List.forall_mem_append.1 hq
  obtain ⟨t, hrun₁, ht⟩ := Feeds.wait hP s before hs hq₁ (List.filterMap_eq_nil_iff.2 hbefore)
  obtain ⟨hfree, u, hperform, hu⟩ := h t ht
  obtain ⟨v, hrun₂, hv⟩ := Feeds.wait hQ u after hu (List.forall_mem_cons.1 hq₂).2 hafter
  exact ⟨v, hrun₁.append (.cons (by simp [Operation.enabled, hfree]) hperform hrun₂), hv⟩

end Feeds

/-! ### Waiting with no frame held -/

/-- `F` speaks of the FSR's registers and buffer only. -/
def FsrOnly (F : State → Prop) : Prop :=
  ∀ (s : State) (log : List Event) (faults : FaultSet) (mark : Bool), F s →
    F { s with log := log, faults := faults, unwrittenRead := mark }

/-- No frame is held; `E` holds of the events of the `Rx` steps, and `F` of the FSR. -/
structure Unheld (E : List Event → Prop) (F : State → Prop) (s : State) : Prop where
  hold : s.hold = false
  events : E s.rxEvents
  fsr : F s

section Unheld

variable {E E' : List Event → Prop} {F G : State → Prop} {b : Byte}

/-- Quiet commands disturb nothing that is said of the FSR with no frame held. -/
theorem Unheld.stable (hF : FsrOnly F) : Stable (Unheld E F) where
  keeps hs h := by
    refine ⟨h.fsr.hold_eq.trans hs.hold, h.events.symm ▸ hs.events, ?_⟩
    rw [h.fsr]
    exact hF _ _ _ _ hs.fsr
  readable hs hh := by simp [hs.hold] at hh

/-- A byte that delivers no frame. -/
theorem Feeds.unheld (hF : FsrOnly F) (hG : FsrOnly G) (h : ∀ s, F s → ∃ t, perform (.rx b) s = .next t ∧
    t.hold = s.hold ∧ (E s.rxEvents → E' t.rxEvents) ∧ G t) : Feeds (Unheld E F) [b] (Unheld E' G) := by
  refine Feeds.byte (Unheld.stable hF) (Unheld.stable hG) fun s hs => ⟨hs.hold, ?_⟩
  obtain ⟨t, ht, hhold, hevents, hfsr⟩ := h s hs.fsr
  exact ⟨t, ht, hhold.trans hs.hold, hevents hs.events, hfsr⟩

/-- A byte that emits nothing. -/
theorem Feeds.silent (hF : FsrOnly F) (hG : FsrOnly G) (h : ∀ s, F s → ∃ t, perform (.rx b) s = .next t ∧
    t.hold = s.hold ∧ t.log = s.log ∧ G t) : Feeds (Unheld E F) [b] (Unheld E G) := by
  refine Feeds.unheld hF hG fun s hs => ?_
  obtain ⟨t, ht, hhold, hlog, hfsr⟩ := h s hs
  exact ⟨t, ht, hhold, fun hE => by rwa [State.rxEvents, hlog], hfsr⟩

end Unheld

/-! ### The sync bytes and the class byte -/

/-- In one of the two states that look for a frame (R103, R104). -/
def State.searching (s : State) : Prop := s.st = .waitSync1 ∨ s.st = .waitSync2

/-- Looking for a frame, any byte is consumed silently (R103, R104). -/
theorem perform_rx_searching {s : State} (b : Byte) (hs : s.searching) :
    ∃ st, perform (.rx b) s = .next (s.setSt st) ∧ (b = sync1 → st = .waitSync2) := by
  rcases hs with hst | hst <;> rw [perform_rx b hst]
  · exact ⟨_, rfl, fun hb => if_pos hb⟩
  · exact ⟨_, rfl, fun hb => by subst hb; rfl⟩

section Frame

variable {E : List Event → Prop}

/-- The first sync byte, found in either state (R103, R104). -/
theorem feeds_sync1 : Feeds (Unheld E State.searching) [sync1] (Unheld E (·.st = .waitSync2)) := by
  refine Feeds.silent (fun _ _ _ _ h => h) (fun _ _ _ _ h => h) fun s hs => ?_
  obtain ⟨st, ht, hst⟩ := perform_rx_searching sync1 hs
  exact ⟨_, ht, rfl, rfl, hst rfl⟩

/-- The second sync byte (R104). -/
theorem feeds_sync2 : Feeds (Unheld E (·.st = .waitSync2)) [sync2] (Unheld E (·.st = .cls)) :=
  Feeds.silent (fun _ _ _ _ h => h) (fun _ _ _ _ h => h) fun _ hst => ⟨_, perform_rx _ hst, rfl, rfl, rfl⟩

/-- Between the class byte and the checksum bytes, with the covered bytes `h` received (R113). -/
structure Assembling (h : List Byte) (s : State) : Prop where
  covered : AccInv s h
  afterClass : 3 ≤ rank s.st
  beforeChecksum : rank s.st ≤ 7

/-- How far a frame is assembled is said in registers and buffer. -/
theorem Assembling.fsrOnly (h : List Byte) : FsrOnly (Assembling h) := fun _ _ _ _ hs => ⟨hs.1, hs.2, hs.3⟩

/-- The class byte (R105). -/
theorem feeds_class (c : Byte) : Feeds (Unheld E (·.st = .cls)) [c] (Unheld E (Assembling [c])) :=
  Feeds.silent (fun _ _ _ _ h => h) (Assembling.fsrOnly [c]) fun _ hst =>
    ⟨_, perform_rx _ hst, rfl, rfl, AccInv.after_class rfl, by simp, by simp⟩

/-! ### The covered bytes -/

section Covered

variable {s : State} {h q rest p : List Byte} {b c i : Byte}

/-- The state after a payload byte or a completed length. -/
theorem rank_afterPayload (cnt len : Half) : 6 ≤ rank (afterPayload cnt len) ∧ rank (afterPayload cnt len) ≤ 7 := by
  unfold afterPayload
  split <;> simp

/-- Inside the payload the next index exists (R26, R40). -/
theorem AccInv.count_exists (hi : AccInv s h) (hst : s.st = .payload) : s.cnt.toNat < payloadCap := by
  obtain ⟨-, -, -, -, hh, -⟩ := hi
  obtain ⟨-, -, -, hlt, -⟩ := hh hst
  exact hlt.trans_le (toNat_le_payloadCap s.len)

/-- Before the checksum bytes a byte is covered, and received silently (R105 to R109). -/
theorem Assembling.next (hs : Assembling h s) (hst : s.st ≠ .ckA) (b : Byte) :
    ∃ t, perform (.rx b) s = .next t ∧ t.hold = s.hold ∧ t.log = s.log ∧ Assembling (h ++ [b]) t := by
  obtain ⟨hi, hafter, hbefore⟩ := hs
  cases hcase : s.st
  case waitSync1 | waitSync2 | cls => simp [hcase] at hafter
  case ckA => exact absurd hcase hst
  case ckB => simp [hcase] at hbefore
  case id => exact ⟨_, perform_rx b hcase, by simp, by simp, hi.after_id hcase rfl, by simp, by simp⟩
  case lenLo => exact ⟨_, perform_rx b hcase, by simp, by simp, hi.after_lenLo hcase rfl, by simp, by simp⟩
  case lenHi =>
    refine ⟨_, perform_rx b hcase, by simp, by simp, hi.after_lenHi hcase rfl, ?_, ?_⟩
    all_goals rw [State.setSt_st, afterLength_eq]
    · exact Nat.le_trans (by decide) (rank_afterPayload _ _).1
    · exact (rank_afterPayload _ _).2
  case payload =>
    have hexec := execRxPayload_eq b (hi.count_exists hcase)
    refine ⟨_, (perform_rx b hcase).trans hexec, by simp, by simp, hi.after_payload hcase hexec, ?_, ?_⟩
    all_goals rw [State.setSt_st]
    · exact Nat.le_trans (by decide) (rank_afterPayload _ _).1
    · exact (rank_afterPayload _ _).2

/-- From the payload on, the history is the header and the payload so far, which is whole in `CK_A`. -/
theorem AccInv.headed (hi : AccInv s h) (hst : s.st = .payload ∨ s.st = .ckA) :
    ∃ q, h = headedBy s q ∧ holdsPayload s.buf q ∧ (q.length = s.len.toNat ↔ s.st = .ckA) := by
  obtain ⟨-, -, -, -, hpayload, hwhole⟩ := hi
  rcases hst with hst | hst
  · obtain ⟨q, hh, hq, hlt, hbuf⟩ := hpayload hst
    exact ⟨q, hh, hbuf, by simp [hst]; omega⟩
  · obtain ⟨q, hh, hq, hbuf⟩ := hwhole (by simp [hst])
    exact ⟨q, hh.trans (headedBy_eq_coveredTail hq).symm, hbuf, by simp [hst, hq]⟩

/-- Two length bytes count one length (R61). -/
theorem length_of_lengthBytes {len : Half} {n : Nat} (hn : n ≤ 65535) (hlo : len.setWidth 8 = BitVec.ofNat 8 n)
    (hhi : len.extractLsb' 8 8 = BitVec.ofNat 8 (n / 256)) : len.toNat = n := by
  obtain ⟨hlo', hhi'⟩ := lengthBytes len
  have h₁ := congrArg BitVec.toNat (hlo'.symm.trans hlo)
  have h₂ := congrArg BitVec.toNat (hhi'.symm.trans hhi)
  simp only [BitVec.toNat_ofNat] at h₁ h₂
  have := len.isLt
  omega

/-- Where the header and the payload so far begin the covered bytes of a frame, the registers hold that frame's. -/
theorem headedBy_of_covered (hp : p.length ≤ 65535) (hcov : headedBy s q ++ rest = c :: coveredTail i p) :
    s.cls = c ∧ s.mid = i ∧ s.len.toNat = p.length ∧ q ++ rest = p := by
  simp only [headedBy, coveredTail, List.cons_append, List.cons.injEq] at hcov
  obtain ⟨hcls, hmid, hlo, hhi, hpayload⟩ := hcov
  exact ⟨hcls, hmid, length_of_lengthBytes hp hlo hhi, hpayload⟩

/-- While a covered byte of the frame is missing, the FSR is not yet in `CK_A`. -/
theorem Assembling.not_ckA (hs : Assembling h s) (hp : p.length ≤ 65535)
    (hcov : h ++ b :: rest = c :: coveredTail i p) : s.st ≠ .ckA := by
  intro hst
  obtain ⟨q, rfl, -, hq⟩ := hs.covered.headed (.inr hst)
  obtain ⟨-, -, hlen, hpayload⟩ := headedBy_of_covered hp hcov
  have hlength := congrArg List.length hpayload
  have hwhole := hq.2 hst
  simp at hlength
  omega

/-- The registers and the buffer hold the frame, and `st` is the given state. -/
structure Assembled (c i : Byte) (p : List Byte) (st : St) (s : State) : Prop where
  st : s.st = st
  cls : s.cls = c
  mid : s.mid = i
  len : s.len.toNat = p.length
  payload : holdsPayload s.buf p
  sums : (s.ckA, s.ckB) = frameCk c i p

/-- With every covered byte of the frame received, the FSR is in `CK_A` and holds the frame. -/
theorem Assembling.whole (hs : Assembling (c :: coveredTail i p) s) (hp : p.length ≤ 65535) :
    Assembled c i p .ckA s := by
  have hst : s.st = .payload ∨ s.st = .ckA := by
    obtain ⟨⟨-, hid, hlenLo, hlenHi, -⟩, hafter, hbefore⟩ := hs
    cases hcase : s.st
    case waitSync1 | waitSync2 | cls => simp [hcase] at hafter
    case id => simpa [coveredTail] using hid hcase
    case lenLo => simpa [coveredTail] using hlenLo hcase
    case lenHi => simpa [coveredTail] using (hlenHi hcase).1
    case payload => exact .inl rfl
    case ckA => exact .inr rfl
    case ckB => simp [hcase] at hbefore
  obtain ⟨q, hh, hbuf, hq⟩ := hs.covered.headed hst
  obtain ⟨hcls, hmid, hlen, hpayload⟩ := headedBy_of_covered (rest := []) hp (by simpa using hh.symm)
  obtain rfl : q = p := by simpa using hpayload
  refine ⟨hq.1 hlen.symm, hcls, hmid, hlen, hbuf, ?_⟩
  obtain ⟨tail, htail, hck⟩ := hs.covered.1 hs.afterClass
  obtain ⟨-, rfl⟩ := List.cons.inj htail
  rw [hck, hcls]
  rfl

/-- The frame assembled stands in registers and buffer. -/
theorem Assembled.fsrOnly (c i : Byte) (p : List Byte) (st : St) : FsrOnly (Assembled c i p st) :=
  fun _ _ _ _ hs => ⟨hs.1, hs.2, hs.3, hs.4, hs.5, hs.6⟩

/-- The covered bytes that are still missing, after those received. -/
theorem feeds_covered (hp : p.length ≤ 65535) (hcov : h ++ rest = c :: coveredTail i p) :
    Feeds (Unheld E (Assembling h)) rest (Unheld E (Assembling (c :: coveredTail i p))) := by
  induction rest generalizing h with
  | nil =>
    obtain rfl : h = c :: coveredTail i p := by simpa using hcov
    exact Feeds.wait (Unheld.stable (Assembling.fsrOnly _))
  | cons b rest ih =>
    have hbyte : Feeds (Unheld E (Assembling h)) [b] (Unheld E (Assembling (h ++ [b]))) :=
      Feeds.silent (Assembling.fsrOnly _) (Assembling.fsrOnly _) fun s hs => hs.next (hs.not_ckA hp hcov) b
    exact hbyte.append (ih (by simpa using hcov))

/-- The bytes of a frame up to its checksum bytes. -/
theorem feeds_frame (c i : Byte) {p : List Byte} (hp : p.length ≤ 65535) :
    Feeds (Unheld E State.searching) (sync1 :: sync2 :: c :: coveredTail i p) (Unheld E (Assembled c i p .ckA)) :=
  (((feeds_sync1.append feeds_sync2).append (feeds_class c)).append (feeds_covered hp rfl)).weaken
    fun _ hs => ⟨hs.hold, hs.events, hs.fsr.whole hp⟩

end Covered

/-! ### The checksum bytes -/

section Checksum

variable {c i a b : Byte} {p : List Byte} {ev : List Event}

/-- The first checksum byte matches (R110). -/
theorem feeds_ckA_match : Feeds (Unheld E (Assembled c i p .ckA)) [(frameCk c i p).1]
    (Unheld E (Assembled c i p .ckB)) := by
  refine Feeds.silent (Assembled.fsrOnly _ _ _ _) (Assembled.fsrOnly _ _ _ _) fun s hs => ?_
  have hmatch : s.ckA = (frameCk c i p).1 := congrArg Prod.fst hs.sums
  rw [← hmatch]
  exact ⟨_, (perform_rx _ hs.st).trans (execRxCkA_match s), rfl, rfl, rfl, hs.2, hs.3, hs.4, hs.5, hs.6⟩

/-- The frame is held, and after the events `ev` its delivery is the only event of the `Rx` steps. -/
structure Delivered (ev : List Event) (c i : Byte) (p : List Byte) (s : State) : Prop where
  st : s.st = .waitSync1
  hold : s.hold = true
  cls : s.cls = c
  mid : s.mid = i
  len : s.len.toNat = p.length
  payload : holdsPayload s.buf p
  events : s.rxEvents = ev ++ [frameEvent (BitVec.ofNat 16 p.length) i c]

/-- Quiet commands leave a delivered frame held, and can read it. -/
theorem Delivered.stable : Stable (Delivered ev c i p) where
  keeps hs h := by
    obtain ⟨hfsr, hevents⟩ := h
    have hevents := hevents.trans hs.events
    rw [hfsr] at hevents ⊢
    exact ⟨hs.1, hs.2, hs.3, hs.4, hs.5, hs.6, hevents⟩
  readable hs _ k hk := by rw [hs.payload k (hs.len ▸ hk)]; rfl

/-- The second checksum byte matches: the frame is delivered (R111). -/
theorem feeds_ckB_match : Feeds (Unheld (· = ev) (Assembled c i p .ckB)) [(frameCk c i p).2]
    (Delivered ev c i p) := by
  refine Feeds.byte (Unheld.stable (Assembled.fsrOnly _ _ _ _)) Delivered.stable fun s hs => ⟨hs.hold, ?_⟩
  obtain ⟨-, hevents, hfsr⟩ := hs
  have hmatch : s.ckB = (frameCk c i p).2 := congrArg Prod.snd hfsr.sums
  rw [← hmatch]
  refine ⟨_, (perform_rx _ hfsr.st).trans (execRxCkB_match s), rfl, rfl, hfsr.2, hfsr.3, hfsr.4, hfsr.5, ?_⟩
  have hlen : s.len = BitVec.ofNat 16 p.length := by simp [← hfsr.len]
  rw [← hlen, ← hfsr.mid, ← hfsr.cls, ← hevents]
  simp [State.rxEvents, frameEvent, EvCode.fromRx]

/-- The delivered frames among the events. -/
def framesOf (l : List Event) : List Event := l.filter (·.code == .frame)

/-- A frame is delivered by an event of the `Rx` steps (R70). -/
theorem State.frameEvents_eq (s : State) : s.frameEvents = framesOf s.rxEvents := by
  rw [State.frameEvents, State.rxEvents, framesOf, List.filter_filter]
  refine List.filter_congr fun e _ => ?_
  cases e.code <;> rfl

/-- A gated diagnostic event delivers no frame. -/
theorem framesOf_emitDiag {s t : State} {e : Event} (hlog : t.log = s.log) (he : e.code.diagnostic = true) :
    framesOf (t.emitDiag e).rxEvents = framesOf s.rxEvents := by
  have hframe : e.code ≠ .frame := fun h => by rw [h] at he; cases he
  rw [← State.frameEvents_eq, ← State.frameEvents_eq, State.frameEvents, State.frameEvents, State.emitDiag_log, hlog]
  split
  · simp [hframe]
  · rfl

/-- The first checksum byte does not match (R110): the FSR looks for the next frame. -/
theorem feeds_ckA_mismatch (ha : a ≠ (frameCk c i p).1) :
    Feeds (Unheld (framesOf · = ev) (Assembled c i p .ckA)) [a] (Unheld (framesOf · = ev) State.searching) := by
  refine Feeds.unheld (Assembled.fsrOnly _ _ _ _) (fun _ _ _ _ h => h) fun s hs => ?_
  have hne : a ≠ s.ckA := by rwa [show s.ckA = (frameCk c i p).1 from congrArg Prod.fst hs.sums]
  exact ⟨_, (perform_rx _ hs.st).trans (execRxCkA_mismatch hne), by simp,
    Eq.trans (framesOf_emitDiag rfl rfl), .inl (by simp)⟩

/-- The second checksum byte does not match (R111). -/
theorem feeds_ckB_mismatch (hb : b ≠ (frameCk c i p).2) :
    Feeds (Unheld (framesOf · = ev) (Assembled c i p .ckB)) [b] (Unheld (framesOf · = ev) State.searching) := by
  refine Feeds.unheld (Assembled.fsrOnly _ _ _ _) (fun _ _ _ _ h => h) fun s hs => ?_
  have hne : b ≠ s.ckB := by rwa [show s.ckB = (frameCk c i p).2 from congrArg Prod.snd hs.sums]
  exact ⟨_, (perform_rx _ hs.st).trans (execRxCkB_mismatch hne), by simp,
    Eq.trans (framesOf_emitDiag rfl rfl), .inl (by simp)⟩

/-- Looking for a frame, one byte delivers none. -/
theorem feeds_searching : Feeds (Unheld E State.searching) [b] (Unheld E fun _ => True) := by
  refine Feeds.silent (fun _ _ _ _ h => h) (fun _ _ _ _ h => h) fun s hs => ?_
  obtain ⟨st, ht, -⟩ := perform_rx_searching b hs
  exact ⟨_, ht, rfl, rfl, trivial⟩

/-- Both checksum bytes, of which one does not match: no frame is delivered (R111). -/
theorem feeds_checksum_mismatch (hab : a ≠ (frameCk c i p).1 ∨ (a = (frameCk c i p).1 ∧ b ≠ (frameCk c i p).2)) :
    Feeds (Unheld (framesOf · = ev) (Assembled c i p .ckA)) [a, b] (Unheld (framesOf · = ev) fun _ => True) := by
  rcases hab with ha | ⟨rfl, hb⟩
  · exact (feeds_ckA_mismatch ha).append feeds_searching
  · exact (feeds_ckA_match.append (feeds_ckB_mismatch hb)).weaken fun _ hs => ⟨hs.hold, hs.events, trivial⟩

end Checksum

end Frame

/-- Settles O58: the frame is assembled up to `CK_A`, and the checksum bytes decide. -/
theorem validFramesAreDelivered : Obligations.ValidFramesAreDelivered := by
  unfold Obligations.ValidFramesAreDelivered
  intro s c i p ops hp hhold hst hq
  refine ⟨fun hrx => ?_, fun a b hrx hab => ?_⟩
  · have hfeeds := (feeds_frame (E := (· = s.rxEvents)) c i hp).append (feeds_ckA_match.append feeds_ckB_match)
    obtain ⟨t, hrun, ht⟩ := hfeeds s ops ⟨hhold, rfl, hst⟩ hq hrx
    exact ⟨t, hrun, ht.st, ht.hold, ht.cls, ht.mid, ht.len, ht.payload, ht.events⟩
  · have hfeeds := (feeds_frame (E := (framesOf · = framesOf s.rxEvents)) c i hp).append
      (feeds_checksum_mismatch (hab.imp_left And.left))
    obtain ⟨t, hrun, ht⟩ := hfeeds s ops ⟨hhold, rfl, hst⟩ hq hrx
    exact ⟨t, hrun, by rw [State.frameEvents_eq, State.frameEvents_eq, ht.events]⟩

/-! ### One changed byte -/

/-- One changed element changes the sum. -/
theorem sum_set_ne {l : List Byte} {k : Nat} {v : Byte} (hin : l[k]? ≠ none) (hne : l[k]? ≠ some v) :
    (l.set k v).sum ≠ l.sum := by
  have hk : k < l.length := by simpa using hin
  rw [List.sum_set', dif_pos hk, ne_eq, add_eq_left, neg_add_eq_zero]
  rintro rfl
  exact hne (List.getElem?_eq_getElem hk)

/-- The first checksum byte sums class, id and payload, and the two length bytes (R61). -/
theorem frameCk_fst (c i : Byte) (p : List Byte) : (frameCk c i p).1 =
    (c :: i :: p).sum + (BitVec.ofNat 8 p.length + BitVec.ofNat 8 (p.length / 256)) := by
  rw [frameCk, ck_fst]
  simp only [coveredTail, List.sum_cons]
  ring

/-- Settles O59: the changed byte changes the sum that `ckA` holds. -/
theorem oneChangedByteIsDetected : Obligations.OneChangedByteIsDetected := by
  unfold Obligations.OneChangedByteIsDetected
  intro s c i c' i' v p p' k ops₁ ops₂ hp hhold hst hq hin hne hset hrx₁ hrx₂
  obtain ⟨hq₁, hq₂⟩ := List.forall_mem_append.1 hq
  have hlen : p'.length = p.length := by simpa using congrArg List.length hset
  have hsum : (frameCk c' i' p').1 ≠ (frameCk c i p).1 := by
    rw [frameCk_fst, frameCk_fst, hlen, hset]
    exact fun h => sum_set_ne hin hne (add_right_cancel h)
  obtain ⟨u, hrun₁, hu⟩ := feeds_frame (E := (framesOf · = framesOf s.rxEvents)) c' i' (hlen ▸ hp) s ops₁
    ⟨hhold, rfl, hst⟩ hq₁ hrx₁
  obtain ⟨t, hrun₂, ht⟩ := feeds_checksum_mismatch (.inl hsum.symm) u ops₂ hu hq₂ hrx₂
  have hckA : u.ckA = (frameCk c' i' p').1 := congrArg Prod.fst hu.fsr.sums
  exact ⟨u, t, hrun₁, hu.fsr.st, hckA ▸ hsum, hrun₂, ht.hold,
    by rw [State.frameEvents_eq, State.frameEvents_eq, ht.events]⟩

end Sys2Proof.Machine

/-! The family 41_field_decoder.md: the result word of a field (R140), the six forms of `FREAD` (R142 to R147), the bytes a field read depends on (R141), the raw readout of a payload (R148), and the round trip of encoded fields (R152). -/

namespace Sys2Proof.Machine

open Claims (leNat bytesAt emits freadForm freadErrors decodesFromUpper fits storedAt)

/-! ### The result word of a field -/

/-- The number of a list of bytes fits in their bits. -/
theorem leNat_lt (bs : List Byte) : leNat bs < 2 ^ (8 * bs.length) := by
  induction bs with
  | nil => simp [leNat]
  | cons b bs ih =>
    have hb := b.isLt
    rw [leNat, List.length_cons, Nat.mul_succ, Nat.pow_add]
    omega

/-- Putting a byte below a little-endian word is adding it to 256 times the word (R42). -/
theorem littleEndian_ofNat (b : Byte) (m : Nat) :
    b.setWidth 32 ||| (BitVec.ofNat 32 m <<< 8) = BitVec.ofNat 32 (b.toNat + 256 * m) := by
  have hdisjoint : b.setWidth 32 &&& (BitVec.ofNat 32 m <<< 8) = 0#32 := by
    ext i hi
    by_cases h8 : i < 8
    · simp [h8]
    · simp [h8, BitVec.getLsbD_of_ge b i (by omega)]
  rw [← BitVec.add_eq_or_of_and_eq_zero _ _ hdisjoint]
  apply BitVec.eq_of_toNat_eq
  simp only [BitVec.toNat_add, BitVec.toNat_setWidth, BitVec.toNat_shiftLeft, BitVec.toNat_ofNat, Nat.shiftLeft_eq]
  omega

/-- A little-endian read of bytes that are there answers their number (R42). -/
theorem State.memRead_bytesAt {s : State} {bs : List Byte} : ∀ {off : Nat}, off + bs.length ≤ payloadCap →
    bytesAt s off bs → s.memRead off bs.length = .ok (BitVec.ofNat 32 (leNat bs)) := by
  induction bs with
  | nil => intro off _ _; rfl
  | cons b bs ih =>
    intro off hcap hbytes
    rw [List.length_cons] at hcap
    have hfirst : s.readByte off = .ok b := State.readByte_eq_ok.2 ⟨by omega, hbytes 0 (by simp)⟩
    have hrest : bytesAt s (off + 1) bs := fun k hk => by
      have h := hbytes (k + 1) (by simpa using hk)
      rwa [← Nat.succ_add_eq_add_succ, List.getElem_cons_succ] at h
    rw [List.length_cons, State.memRead_succ hfirst (ih (by omega) hrest), littleEndian_ofNat, leNat]

/-- The result word of a field that consists of the given bytes (R140). -/
def fieldWord (signed : Bool) (bs : List Byte) : Word :=
  extendField signed bs.length (BitVec.ofNat 32 (leNat bs))

/-- The result word is the field's bits, extended to 32 (R140). -/
theorem fieldWord_eq_extend (signed : Bool) {bs : List Byte} (hn : bs.length ≤ 4) (x : BitVec (8 * bs.length))
    (hx : x.toNat = leNat bs) : fieldWord signed bs = if signed then x.signExtend 32 else x.setWidth 32 := by
  rw [fieldWord, extendField, ← hx, BitVec.setWidth_ofNat_of_le (by omega), BitVec.ofNat_toNat, BitVec.setWidth_eq]

/-- An unsigned result word has the number of the field's bytes (R140). -/
theorem toNat_fieldWord {bs : List Byte} (hn : bs.length ≤ 4) : (fieldWord false bs).toNat = leNat bs := by
  have hlt := leNat_lt bs
  have h32 : 2 ^ (8 * bs.length) ≤ 2 ^ 32 := Nat.pow_le_pow_right (by omega) (by omega)
  rw [fieldWord_eq_extend false hn (BitVec.ofNat _ (leNat bs)) (by simpa using Nat.mod_eq_of_lt hlt)]
  simp only [Bool.false_eq_true, if_false, BitVec.toNat_setWidth, BitVec.toNat_ofNat, Nat.mod_eq_of_lt hlt]
  exact Nat.mod_eq_of_lt (hlt.trans_le h32)

/-- A signed result word has the number of the field's bytes read in two's complement (R140). -/
theorem toInt_fieldWord {bs : List Byte} (hn : bs.length ≤ 4) :
    (fieldWord true bs).toInt = Int.bmod (leNat bs) (2 ^ (8 * bs.length)) := by
  rw [fieldWord_eq_extend true hn (BitVec.ofNat _ (leNat bs)) (by simpa using Nat.mod_eq_of_lt (leNat_lt bs)),
    if_pos rfl, BitVec.toInt_signExtend_of_le (by omega), BitVec.toInt_ofNat']

/-- A byte appended below is the least significant one (R42). -/
theorem toNat_append_byte {n : Nat} (x : BitVec n) (b : Byte) : (x ++ b).toNat = b.toNat + 256 * x.toNat := by
  rw [BitVec.toNat_append, ← Nat.shiftLeft_add_eq_or_of_lt b.isLt, Nat.shiftLeft_eq]
  omega

/-- The result word of a one-byte field (R142, R143). -/
theorem fieldWord_one (signed : Bool) (b0 : Byte) :
    fieldWord signed [b0] = if signed then b0.signExtend 32 else b0.setWidth 32 :=
  fieldWord_eq_extend signed (bs := [b0]) (by simp) b0 (by simp [leNat])

/-- The result word of a two-byte field (R144, R145). -/
theorem fieldWord_two (signed : Bool) (b0 b1 : Byte) : fieldWord signed [b0, b1] =
    if signed then (b1 ++ b0 : BitVec (8 + 8)).signExtend 32 else (b1 ++ b0 : BitVec (8 + 8)).setWidth 32 :=
  fieldWord_eq_extend signed (bs := [b0, b1]) (by simp) (b1 ++ b0) (by simp [leNat, toNat_append_byte])

/-- The result word of a four-byte field, in which nothing is extended (R146, R147). -/
theorem fieldWord_four (signed : Bool) (b0 b1 b2 b3 : Byte) :
    fieldWord signed [b0, b1, b2, b3] = (b3 ++ b2 ++ b1 ++ b0 : BitVec (8 + 8 + 8 + 8)) := by
  rw [fieldWord_eq_extend signed (bs := [b0, b1, b2, b3]) (by simp) (b3 ++ b2 ++ b1 ++ b0 : BitVec (8 + 8 + 8 + 8))
    (by simp [leNat, toNat_append_byte])]
  cases signed
  · exact BitVec.setWidth_eq _
  · exact BitVec.signExtend_eq _

/-! ### The general rule -/

/-- The upper half of a form's words (R65, R67). -/
def upperHalf (width : Width) (signed : Bool) : Half :=
  (0x3#4 ++ 0#9 ++ signBit signed ++ width.code : BitVec (4 + 9 + 1 + 2))

/-- The two errors of every form (R140, R149). -/
theorem freadErrors_freadForm (width : Width) (signed : Bool) (off : Half) :
    freadErrors (freadForm width signed off) (upperHalf width signed ++ off : BitVec (16 + 16)) off width.bytes := by
  refine fun s => ⟨fun hh => ?_, fun hh ho => ?_⟩
  · exact (exec_freadForm width signed off s).trans (State.fread_noFrame hh)
  · exact ⟨_, (exec_freadForm width signed off s).trans (State.fread_outside hh ho), rfl⟩

/-- In bounds of bytes that are there, every form emits the field's result word (R140). -/
theorem emits_freadForm {width : Width} {signed : Bool} {off : Half} {s : State} {bs : List Byte}
    (hh : s.hold = true) (ho : off.toNat + width.bytes ≤ s.len.toNat) (hlen : bs.length = width.bytes)
    (hbytes : bytesAt s off.toNat bs) {v : Word} (hv : fieldWord signed bs = v) :
    emits (freadForm width signed off) s ⟨.field, v⟩ := by
  have hraw : s.memRead off.toNat width.bytes = .ok (BitVec.ofNat 32 (leNat bs)) := by
    rw [← hlen] at ho ⊢
    exact State.memRead_bytesAt (ho.trans (toNat_le_payloadCap s.len)) hbytes
  refine ⟨_, (exec_freadForm width signed off s).trans (State.fread_inside hh ho hraw), ?_⟩
  rw [← hv, fieldWord, hlen]
  rfl

/-- Settles O15: every form is the general rule, and the result word has the number of the field's bytes. -/
theorem freadGeneralRule : Obligations.FreadGeneralRule := by
  unfold Obligations.FreadGeneralRule
  refine fun width signed off => ⟨congrArg Except.ok (decodeCtl_freadWord width signed off),
    freadErrors_freadForm width signed off, fun s bs hh ho hlen hbytes => ?_⟩
  have hn : bs.length ≤ 4 := hlen ▸ width.bytes_le
  refine ⟨fieldWord signed bs, emits_freadForm hh ho hlen hbytes rfl, ?_, ?_⟩
  · rintro rfl
    exact toNat_fieldWord hn
  · rintro rfl
    rw [← hlen]
    exact toInt_fieldWord hn

/-! ### The six forms -/

/-- A form's words, and no others, decode to it (R67). -/
theorem decodesFromUpper_freadForm (width : Width) (signed : Bool) :
    decodesFromUpper (upperHalf width signed) (freadForm width signed) := by
  refine fun w off => ⟨fun h => ?_, fun h => h ▸ congrArg Except.ok (decodeCtl_freadWord width signed off)⟩
  obtain ⟨-, hw⟩ := encodeOfDecode (.ctl w) (freadForm width signed off) h
  rw [encode_freadForm] at hw
  exact (Transfer.ctl.inj hw).symm

/-- Settles O16: `FREAD.U1` is the unsigned one-byte form. -/
theorem freadU1Form : Obligations.FreadU1Form := by
  unfold Obligations.FreadU1Form
  exact ⟨decodesFromUpper_freadForm .one false, fun off => ⟨freadErrors_freadForm .one false off,
    fun s b0 hh ho hbytes => emits_freadForm (width := .one) hh ho rfl hbytes (fieldWord_one false b0)⟩⟩

/-- Settles O17: `FREAD.I1` is the signed one-byte form. -/
theorem freadI1Form : Obligations.FreadI1Form := by
  unfold Obligations.FreadI1Form
  exact ⟨decodesFromUpper_freadForm .one true, fun off => ⟨freadErrors_freadForm .one true off,
    fun s b0 hh ho hbytes => emits_freadForm (width := .one) hh ho rfl hbytes (fieldWord_one true b0)⟩⟩

/-- Settles O18: `FREAD.U2` is the unsigned two-byte form. -/
theorem freadU2Form : Obligations.FreadU2Form := by
  unfold Obligations.FreadU2Form
  exact ⟨decodesFromUpper_freadForm .two false, fun off => ⟨freadErrors_freadForm .two false off,
    fun s b0 b1 hh ho hbytes => emits_freadForm (width := .two) hh ho rfl hbytes (fieldWord_two false b0 b1)⟩⟩

/-- Settles O19: `FREAD.I2` is the signed two-byte form. -/
theorem freadI2Form : Obligations.FreadI2Form := by
  unfold Obligations.FreadI2Form
  exact ⟨decodesFromUpper_freadForm .two true, fun off => ⟨freadErrors_freadForm .two true off,
    fun s b0 b1 hh ho hbytes => emits_freadForm (width := .two) hh ho rfl hbytes (fieldWord_two true b0 b1)⟩⟩

/-- Settles O20: `FREAD.U4` is the unsigned four-byte form. -/
theorem freadU4Form : Obligations.FreadU4Form := by
  unfold Obligations.FreadU4Form
  exact ⟨decodesFromUpper_freadForm .four false, fun off => ⟨freadErrors_freadForm .four false off,
    fun s b0 b1 b2 b3 hh ho hbytes =>
      emits_freadForm (width := .four) hh ho rfl hbytes (fieldWord_four false b0 b1 b2 b3)⟩⟩

/-- Settles O21: `FREAD.I4` is the signed four-byte form, with the word of the unsigned one. -/
theorem freadI4Form : Obligations.FreadI4Form := by
  unfold Obligations.FreadI4Form
  exact ⟨decodesFromUpper_freadForm .four true, fun off => ⟨freadErrors_freadForm .four true off,
    fun s b0 b1 b2 b3 hh ho hbytes =>
      emits_freadForm (width := .four) hh ho rfl hbytes (fieldWord_four true b0 b1 b2 b3)⟩⟩

/-! ### The bytes a field read depends on -/

/-- Settles O22: each way a `FREAD` goes on is open with the other buffer too, which answers the same read. -/
theorem freadSeesOnlyItsBytes : Obligations.FreadSeesOnlyItsBytes := by
  unfold Obligations.FreadSeesOnlyItsBytes
  intro width signed off s t m hagree h
  have hread : State.memRead { s with buf := m } off.toNat width.bytes = s.memRead off.toNat width.bytes :=
    State.memRead_congr width.bytes hagree
  rw [exec_freadForm] at h ⊢
  rcases State.fread_next h with ⟨hh, rfl⟩ | ⟨hh, ho, rfl⟩ | ⟨hh, ho, raw, hraw, rfl⟩
  · exact State.fread_noFrame hh
  · exact State.fread_outside hh ho
  · exact State.fread_inside hh ho (hread.trans hraw)

/-! ### Reading a held payload -/

/-- A frame with payload `p` is held (R140). -/
structure Holding (p : List Byte) (s : State) : Prop where
  hold : s.hold = true
  len : s.len.toNat = p.length
  payload : holdsPayload s.buf p

/-- While the payload `p` is held, the word `w` is answered with the result word `v`, and `p` stays held. -/
def Answers (p : List Byte) (w v : Word) : Prop :=
  ∀ s, Holding p s → ∃ t, perform (.ctl w) s = .next t ∧ Holding p t ∧ t.log = s.log ++ [fieldEvent v]

/-- A `FREAD` of bytes of the held payload is answered with the field's result word (R140). -/
theorem answers_freadForm {p bs : List Byte} {width : Width} (signed : Bool) {off : Half}
    (ho : off.toNat + width.bytes ≤ p.length) (hlen : bs.length = width.bytes)
    (hbytes : ∀ k, (h : k < bs.length) → p[off.toNat + k]? = some bs[k]) :
    Answers p (upperHalf width signed ++ off : BitVec (16 + 16)) (fieldWord signed bs) := by
  intro s ⟨hh, hslen, hp⟩
  have hat : bytesAt s off.toNat bs := fun k hk => by
    obtain ⟨hin, hbyte⟩ := List.getElem?_eq_some_iff.1 (hbytes k hk)
    rw [hp _ hin, hbyte]
  obtain ⟨t, hexec, ht⟩ := emits_freadForm hh (hslen ▸ ho) hlen hat rfl
  rw [← decodeCtl_freadWord] at hexec
  exact ⟨t, hexec, by rw [ht]; exact ⟨hh, hslen, hp⟩, by rw [ht]; rfl⟩

/-- Words with an answer each run in sequence, and their result words are logged in order. -/
theorem run_answers {p : List Byte} {words results : List Word} (h : List.Forall₂ (Answers p) words results) :
    ∀ {s : State}, Holding p s → ∃ t, Run s (words.map .ctl) t ∧ Holding p t ∧
      t.log = s.log ++ results.map fieldEvent := by
  induction h with
  | nil => exact fun {s} hs => ⟨s, .nil s, hs, by simp⟩
  | cons hfirst _ ih =>
    intro s hs
    obtain ⟨t, hperform, ht, hlog⟩ := hfirst s hs
    obtain ⟨u, hrun, hu, hlog'⟩ := ih ht
    exact ⟨u, .cons rfl hperform hrun, hu, by simp [hlog', hlog]⟩

/-- A `FREAD.U1` of the held payload is answered with the byte at its offset (R142). -/
theorem answers_freadU1 {p : List Byte} {off : Half} {k : Nat} (hoff : off.toNat = k) (hk : k < p.length) :
    Answers p (0x3000#16 ++ off : BitVec (16 + 16)) (p[k].setWidth 32) := by
  have h := answers_freadForm (p := p) (bs := [p[k]]) (width := .one) (off := off) false (by rw [hoff]; exact hk) rfl
    fun j hj => by
      obtain rfl : j = 0 := by simpa using hj
      simp [hoff, hk]
  rwa [fieldWord_one] at h

/-- The byte-by-byte reads of a held payload are answered with its bytes (R148). -/
theorem answers_readout {p : List Byte} (hp : p.length ≤ 65535) : List.Forall₂ (Answers p)
    ((List.range p.length).map fun k => (0x3000#16 ++ BitVec.ofNat 16 k : BitVec (16 + 16)))
    (p.map (·.setWidth 32)) := by
  refine List.forall₂_iff_get.2 ⟨by simp, fun k _ hk => ?_⟩
  have hk : k < p.length := by simpa using hk
  simp only [List.get_eq_getElem, List.getElem_map, List.getElem_range]
  exact answers_freadU1 (Nat.mod_eq_of_lt (by omega)) hk

/-- Settles O26: each read of the readout is answered with its byte. -/
theorem rawReadoutReturnsPayload : Obligations.RawReadoutReturnsPayload := by
  unfold Obligations.RawReadoutReturnsPayload
  intro s p hh hlen hp
  have hcap : p.length ≤ 65535 := hlen ▸ toNat_le_payloadCap s.len
  obtain ⟨t, hrun, -, hlog⟩ := run_answers (answers_readout hcap) ⟨hh, hlen.symm, hp⟩
  rw [List.map_map] at hrun hlog
  exact ⟨t, hrun, hlog⟩

/-! ### Encoded fields -/

/-- The `n` bytes of a value stored little-endian, in two's complement (R152). -/
def leBytes : Nat → Int → List Byte
  | 0, _ => []
  | n + 1, v => BitVec.ofInt 8 v :: leBytes n (v / 256)

/-- A stored value has as many bytes as its field. -/
@[simp] theorem length_leBytes (n : Nat) (v : Int) : (leBytes n v).length = n := by
  induction n generalizing v with
  | zero => rfl
  | succ n ih => rw [leBytes, List.length_cons, ih]

/-- Byte `k` of a stored value (R152). -/
theorem getElem_leBytes {n k : Nat} {v : Int} (hk : k < (leBytes n v).length) :
    (leBytes n v)[k] = BitVec.ofInt 8 (v / 256 ^ k) := by
  induction n generalizing k v with
  | zero => simp at hk
  | succ n ih =>
    cases k with
    | zero => simp [leBytes]
    | succ k =>
      simp only [leBytes, List.getElem_cons_succ, ih]
      rw [Int.ediv_ediv_of_nonneg (by decide), pow_succ']

/-- The bytes of a value give it back modulo their range. -/
theorem leNat_leBytes (n : Nat) (v : Int) : (leNat (leBytes n v) : Int) ≡ v [ZMOD 2 ^ (8 * n)] := by
  induction n generalizing v with
  | zero => exact Int.modEq_one
  | succ n ih =>
    have hhigh : 256 * (leNat (leBytes n (v / 256)) : Int) ≡ 256 * (v / 256) [ZMOD 2 ^ (8 * (n + 1))] := by
      rw [Nat.mul_succ, pow_add, mul_comm (2 ^ (8 * n) : Int)]
      exact (ih (v / 256)).mul_left'
    have hlow : ((BitVec.ofInt 8 v).toNat : Int) = v % 256 := by
      rw [BitVec.toNat_ofInt, Int.toNat_of_nonneg (Int.emod_nonneg _ (by decide))]
      rfl
    rw [leBytes, leNat, Nat.cast_add, Nat.cast_mul, hlow]
    calc v % 256 + 256 * (leNat (leBytes n (v / 256)) : Int)
      _ ≡ v % 256 + 256 * (v / 256) [ZMOD 2 ^ (8 * (n + 1))] := hhigh.add_left _
      _ = v := Int.emod_add_mul_ediv v 256

/-- A value that fits its field is what the result word of its bytes means (R12, R152). -/
theorem fieldValue_leBytes {f : FieldSpec} {v : Int} (hv : fits f v) :
    fieldValue f.signed (fieldWord f.signed (leBytes f.readWidth.bytes v)) = v := by
  have hn : (leBytes f.readWidth.bytes v).length ≤ 4 := by simpa using f.readWidth.bytes_le
  have hmod := leNat_leBytes f.readWidth.bytes v
  have hlt := leNat_lt (leBytes f.readWidth.bytes v)
  rw [length_leBytes] at hlt
  unfold fits at hv
  cases hs : f.signed <;> rw [hs] at hv
  case false =>
    obtain ⟨h0, hv⟩ : 0 ≤ v ∧ v < 2 ^ (8 * f.readWidth.bytes) := hv
    rw [fieldValue, if_neg nofun, toNat_fieldWord hn]
    rwa [Int.ModEq, Int.emod_eq_of_lt h0 hv, Int.emod_eq_of_lt (Int.natCast_nonneg _) (mod_cast hlt)] at hmod
  case true =>
    obtain ⟨hlow, hhigh⟩ :
        -(2 : Int) ^ (8 * f.readWidth.bytes - 1) ≤ v ∧ v < 2 ^ (8 * f.readWidth.bytes - 1) := hv
    have hpos : 0 < 8 * f.readWidth.bytes := by cases f.readWidth <;> decide
    rw [fieldValue, if_pos rfl, toInt_fieldWord hn, length_leBytes]
    calc Int.bmod (leNat (leBytes f.readWidth.bytes v)) (2 ^ (8 * f.readWidth.bytes))
      _ = Int.bmod v (2 ^ (8 * f.readWidth.bytes)) := by
        rw [← Int.emod_bmod, Nat.cast_pow, Nat.cast_ofNat, hmod.eq]
        exact_mod_cast Int.emod_bmod v _
      _ = (BitVec.ofInt (8 * f.readWidth.bytes) v).toInt := (BitVec.toInt_ofInt v).symm
      _ = v := BitVec.toInt_ofInt_eq_self hpos hlow hhigh

/-! ### The consumer's reads of a registered message -/

/-- The `FREAD` word of a FieldSpec whose offset has 16 bits (R72). -/
def FieldSpec.readWord (f : FieldSpec) : Word :=
  freadWord (signBit f.signed) f.readWidth.code (f.offset.extractLsb' 0 16)

/-- A FieldSpec whose offset has 16 bits is no registry error (R72). -/
theorem FieldSpec.word_eq {f : FieldSpec} (h : f.offset.toNat ≤ 0xFFFF) : f.word = some f.readWord := if_pos h

/-- The result word of a field that stores a value. -/
def resultWord (fv : FieldSpec × Int) : Word := fieldWord fv.1.signed (leBytes fv.1.readWidth.bytes fv.2)

/-- The read of a field within the held payload is answered with the result word of the value stored there (R152). -/
theorem answers_readWord {p : List Byte} {fv : FieldSpec × Int} (hp : p.length ≤ 65535)
    (hin : fv.1.offset.toNat + fv.1.readWidth.bytes ≤ p.length) (hst : storedAt p fv.1 fv.2) :
    Answers p fv.1.readWord (resultWord fv) := by
  have hoff : (fv.1.offset.extractLsb' 0 16).toNat = fv.1.offset.toNat := by
    rw [BitVec.extractLsb'_toNat, Nat.shiftRight_zero]
    omega
  refine answers_freadForm fv.1.signed (by rwa [hoff]) (length_leBytes _ _) fun k hk => ?_
  rw [hoff, getElem_leBytes]
  exact hst k (by simpa using hk)

/-- A field list without registry errors has a word for every field (R72). -/
theorem mapM_word {specs : List FieldSpec} (hoff : ∀ f ∈ specs, f.offset.toNat ≤ 0xFFFF) :
    specs.mapM FieldSpec.word = some (specs.map FieldSpec.readWord) := by
  induction specs with
  | nil => rfl
  | cons f specs ih =>
    obtain ⟨hf, hrest⟩ := List.forall_mem_cons.1 hoff
    simp [List.mapM_cons, FieldSpec.word_eq hf, ih hrest]

section Registered

variable {reg : Registry} {c i : Byte}

/-- The reads of a registered message without registry errors are its fields' words in order (R151). -/
theorem consumerReads_registered {specs : List FieldSpec} (hreg : reg.lookup (c, i) = some specs)
    (hoff : ∀ f ∈ specs, f.offset.toNat ≤ 0xFFFF) (len : Half) :
    consumerReads reg c i len = some (specs.map FieldSpec.readWord) := by
  rw [consumerReads, hreg]
  exact mapM_word hoff

/-- The record of a registered message has the values its fields store (R151, R152). -/
theorem consumerRecord_registered {fields : List (FieldSpec × Int)}
    (hreg : reg.lookup (c, i) = some (fields.map (·.1))) (hfits : ∀ fv ∈ fields, fits fv.1 fv.2) :
    consumerRecord reg c i (fields.map resultWord) = .decoded c i (fields.map fun fv => (fv.1.name, fv.2)) := by
  simp only [consumerRecord, hreg, List.zipWith_map, List.zipWith_self]
  refine congrArg _ (List.map_congr_left fun fv hfv => ?_)
  rw [resultWord, fieldValue_leBytes (hfits fv hfv)]

end Registered

/-- Settles O60: the frame is delivered and held, each field's read is answered with the word of its value, and the
frame is still held when `ACK` comes. -/
theorem encodedFieldsRoundTrip : Obligations.EncodedFieldsRoundTrip := by
  unfold Obligations.EncodedFieldsRoundTrip
  intro reg c i p fields s hp hhold hst hreg hfields
  have hquiet : ∀ op ∈ (frameBytes c i p).map Operation.rx, op.quiet = true := by simp [Operation.quiet]
  have hrx : rxBytes ((frameBytes c i p).map .rx) = frameBytes c i p := by simp [rxBytes]
  obtain ⟨t, hframe, -, hheld, rfl, rfl, hlen, hpayload, -⟩ :=
    (validFramesAreDelivered s c i p _ hp hhold hst hquiet).1 hrx
  have hanswers : List.Forall₂ (Answers p) ((fields.map (·.1)).map FieldSpec.readWord) (fields.map resultWord) := by
    simp only [List.map_map, List.forall₂_map_left_iff, List.forall₂_map_right_iff, List.forall₂_same]
    intro fv hfv
    obtain ⟨hin, -, hstored⟩ := hfields fv hfv
    exact answers_readWord hp hin hstored
  obtain ⟨u, hrun, hu, hlog⟩ := run_answers hanswers ⟨hheld, hlen, hpayload⟩
  have hoff : ∀ f ∈ fields.map (·.1), f.offset.toNat ≤ 0xFFFF := by
    simp only [List.forall_mem_map]
    intro fv hfv
    obtain ⟨hin, -, -⟩ := hfields fv hfv
    omega
  have hfits : ∀ fv ∈ fields, fits fv.1 fv.2 := fun fv hfv => (hfields fv hfv).2.1
  exact ⟨t, u, _, _, _, hframe, consumerReads_registered hreg hoff t.len, hrun, hlog,
    consumerRecord_registered hreg hfits, execAck_held hu.hold, rfl⟩

end Sys2Proof.Machine

/-! The family 42_control.md: which words decode to `ACK`, `CANCEL`, `STATUS` and `ILLEGAL`, and what these four do (R160 to R163). -/

namespace Sys2Proof.Machine

/-! ### Which words decode to a command -/

/-- A legal word, and no other, decodes to its command (R68). -/
theorem LegalWord.decode_ctl_iff {w : Word} {i : Instr} (h : LegalWord w i) (v : Word) :
    decode (.ctl v) = .ok i ↔ v = w := by
  refine ⟨fun hv => ?_, fun hv => hv ▸ congrArg Except.ok h.decodeCtl_eq⟩
  obtain ⟨-, hencode⟩ := encodeOfDecode (.ctl v) i hv
  exact Transfer.ctl.inj (hencode.symm.trans h.wf_encode.2)

/-- A word decodes to `ILLEGAL` exactly when it is no legal command (R69). -/
theorem decode_ctl_illegal_iff {w : Word} : decode (.ctl w) = .ok (.illegal w) ↔ legalCommand w = false := by
  refine ⟨fun h => ?_, fun h => congrArg Except.ok (decodeCtl_illegal h)⟩
  obtain ⟨hwf, -⟩ := encodeOfDecode (.ctl w) (.illegal w) h
  simpa [Instr.wf] using hwf

/-- A field of a word, as R163 reads it off the word's number. -/
theorem extractLsb'_eq_iff_toNat {w : Word} {start len : Nat} {v : BitVec len} :
    w.extractLsb' start len = v ↔ w.toNat / 2 ^ start % 2 ^ len = v.toNat := by
  rw [← BitVec.toNat_inj, BitVec.extractLsb'_toNat, Nat.shiftRight_eq_div_pow]

/-- The words R163 lists are those that are no legal command. -/
theorem legalCommand_eq_false_iff_toNat {w : Word} : legalCommand w = false ↔
    w.toNat / 2 ^ 28 = 0 ∨ 5 ≤ w.toNat / 2 ^ 28 ∨
    ((w.toNat / 2 ^ 28 = 1 ∨ w.toNat / 2 ^ 28 = 2 ∨ w.toNat / 2 ^ 28 = 4) ∧ w.toNat % 2 ^ 28 ≠ 0) ∨
    (w.toNat / 2 ^ 28 = 3 ∧ (w.toNat / 2 ^ 19 % 2 ^ 9 ≠ 0 ∨ w.toNat / 2 ^ 16 % 4 = 3)) := by
  have hop : w.toNat / 2 ^ 28 % 2 ^ 4 = w.toNat / 2 ^ 28 := Nat.mod_eq_of_lt (by omega)
  simp only [legalCommand_eq_false_iff, ne_eq, extractLsb'_eq_iff_toNat, hop, BitVec.toNat_ofNat]
  omega

/-! ### The effects -/

/-- STATUS as a number: the state's code, and 16 more while a frame is held (R29, R162). -/
theorem State.statusWord_eq_ofNat (s : State) :
    s.statusWord = BitVec.ofNat 32 (s.st.code.toNat + 16 * s.hold.toNat) := by
  unfold State.statusWord
  cases s.hold <;> cases s.st <;> rfl

/-- Settles O30: the listed words are no legal command, and reporting the error is all that `ILLEGAL` does. -/
theorem illegalStep : Obligations.IllegalStep := by
  unfold Obligations.IllegalStep
  exact fun w => ⟨decode_ctl_illegal_iff.trans legalCommand_eq_false_iff_toNat, fun s => rfl⟩

/-- Settles O27, by whether a frame is held. -/
theorem ackStep : Obligations.AckStep := by
  unfold Obligations.AckStep
  exact ⟨LegalWord.ack.decode_ctl_iff, fun s => ⟨execAck_held, execAck_noFrame⟩⟩

/-- Settles O28: `CANCEL` writes `st` and `hold` and nothing else. -/
theorem cancelStep : Obligations.CancelStep := by
  unfold Obligations.CancelStep
  exact ⟨LegalWord.cancel.decode_ctl_iff, fun s => rfl⟩

/-- Settles O29: `STATUS` logs the STATUS register, read as a number. -/
theorem statusStep : Obligations.StatusStep := by
  unfold Obligations.StatusStep
  refine ⟨LegalWord.status.decode_ctl_iff, fun s => ?_⟩
  rw [← State.statusWord_eq_ofNat]
  rfl

end Sys2Proof.Machine

/-! The family 60_exceptions.md: no state is fatal (R203), what the fault set records (R204, R206), a misuse goes on without changing hardware state (R205), and a held frame is the only one (R210). -/

namespace Sys2Proof.Machine

open Claims (misuse)

/-! ### The fault set -/

/-- Adding a kind to the fault set adds that kind and removes none (R206). -/
@[simp] theorem FaultSet.has_add {f : FaultSet} {k k' : FaultKind} :
    (f.add k).has k' = true ↔ f.has k' = true ∨ k' = k := by
  cases k <;> cases k' <;> simp [FaultSet.add, FaultSet.has]

/-- A command executes what its word decodes to (R69). -/
theorem perform_ctl {w : Word} {i : Instr} (s : State) (hw : decodeCtl w = i) :
    perform (.ctl w) s = exec i s := by
  subst hw; rfl

/-- An accepted byte raises no fault (R204). -/
theorem perform_rx_faults {b : Byte} {s t : State} (h : perform (.rx b) s = .next t) : t.faults = s.faults := by
  cases hst : s.st <;> rw [perform_rx b hst] at h
  case waitSync1 | waitSync2 | cls | id | lenLo | lenHi => cases h; simp
  case payload => obtain ⟨-, rfl⟩ := execRxPayload_next h; simp
  case ckA => rcases execRxCkA_next h with ⟨-, rfl⟩ | ⟨-, rfl⟩ <;> simp
  case ckB => rcases execRxCkB_next h with ⟨-, rfl⟩ | ⟨-, rfl⟩ <;> simp

/-- A `FREAD` raises no fault, or that of the misuse it is (R140). -/
theorem perform_freadForm_faults {w : Word} {width : Width} {signed : Bool} {off : Half} {s t : State}
    (hw : decodeCtl w = Claims.freadForm width signed off) (h : perform (.ctl w) s = .next t) :
    t.faults = s.faults ∨ ∃ k, misuse k (.ctl w) s ∧ t.faults = s.faults.add k := by
  rw [perform_ctl s hw, exec_freadForm] at h
  rcases State.fread_next h with ⟨hh, rfl⟩ | ⟨hh, ho, rfl⟩ | ⟨-, -, raw, -, rfl⟩
  · exact .inr ⟨.cmdErr, ⟨w, rfl, .inr ⟨hh, .inr ⟨width, signed, off, hw⟩⟩⟩, rfl⟩
  · exact .inr ⟨.fieldOob, ⟨w, rfl, hh, width, signed, off, hw, ho⟩, rfl⟩
  · exact .inl rfl

/-- A command raises no fault, or that of the misuse it is (R204). -/
theorem perform_ctl_faults {w : Word} {s t : State} (h : perform (.ctl w) s = .next t) :
    t.faults = s.faults ∨ ∃ k, misuse k (.ctl w) s ∧ t.faults = s.faults.add k := by
  rcases decodeCtl_cases w with hlegal | ⟨-, hw⟩
  · generalize hw : decodeCtl w = i at hlegal
    cases hlegal with
    | ack =>
      cases hh : s.hold with
      | true => cases (execAck_held hh).symm.trans h; exact .inl rfl
      | false =>
        cases (execAck_noFrame hh).symm.trans h
        exact .inr ⟨.cmdErr, ⟨_, rfl, .inr ⟨hh, .inl hw⟩⟩, rfl⟩
    | cancel | status => cases h; exact .inl rfl
    | fread width signed off => exact perform_freadForm_faults hw h
  · cases (perform_ctl s hw).symm.trans h
    exact .inr ⟨.cmdErr, ⟨w, rfl, .inl hw⟩, rfl⟩

/-- Every operation leaves the fault set alone, or adds the kind of the misuse it is (R204). -/
theorem perform_faults {op : Operation} {s t : State} (h : perform op s = .next t) :
    t.faults = s.faults ∨ ∃ k, misuse k op s ∧ t.faults = s.faults.add k := by
  cases op with
  | rst => cases h; exact .inl rfl
  | rx b => exact .inl (perform_rx_faults h)
  | ctl w => exact perform_ctl_faults h

/-! ### Misuses -/

/-- A misuse goes on: it raises its fault, and the FSR's registers and buffer stay as they are (R205). -/
theorem perform_misuse {k : FaultKind} {op : Operation} {s : State} (h : misuse k op s) :
    ∃ t, perform op s = .next t ∧ SameFsr s t ∧ t.faults = s.faults.add k := by
  obtain ⟨w, rfl, hw⟩ := h
  cases k with
  | cmdErr =>
    rcases hw with hw | ⟨hh, hw | ⟨width, signed, off, hw⟩⟩ <;> rw [perform_ctl s hw]
    · exact ⟨_, rfl, rfl, rfl⟩
    · exact ⟨_, execAck_noFrame hh, rfl, rfl⟩
    · exact ⟨_, (exec_freadForm width signed off s).trans (State.fread_noFrame hh), rfl, rfl⟩
  | fieldOob =>
    obtain ⟨hh, width, signed, off, hw, ho⟩ := hw
    rw [perform_ctl s hw]
    exact ⟨_, (exec_freadForm width signed off s).trans (State.fread_outside hh ho), rfl, rfl⟩

/-- Settles O48: what a misuse leaves alone is all of the FSR. -/
theorem faultChangesNoHardwareState : Obligations.FaultChangesNoHardwareState := by
  unfold Obligations.FaultChangesNoHardwareState
  intro op s k hm
  obtain ⟨t, h, hsame, -⟩ := perform_misuse hm
  exact ⟨t, h, hsame⟩

/-- Settles O47: what an operation adds to the fault set is a misuse's kind, and a misuse adds its kind. -/
theorem faultsRecordExactlyMisuse : Obligations.FaultsRecordExactlyMisuse := by
  unfold Obligations.FaultsRecordExactlyMisuse
  intro op s t k h
  constructor
  · intro hk
    rcases perform_faults h with hf | ⟨k', hm, hf⟩ <;> rw [hf] at hk
    · exact .inl hk
    · rcases FaultSet.has_add.1 hk with hk | rfl
      · exact .inl hk
      · exact .inr hm
  · rintro (hk | hm)
    · rcases perform_faults h with hf | ⟨k', -, hf⟩ <;> rw [hf]
      · exact hk
      · exact FaultSet.has_add.2 (.inl hk)
    · obtain ⟨u, hu, -, hf⟩ := perform_misuse hm
      cases h.symm.trans hu
      rw [hf]
      exact FaultSet.has_add.2 (.inr rfl)

/-! ### A held frame -/

/-- What is undisturbed in two runs is undisturbed in the one after the other. -/
theorem Undisturbed.trans {s t u : State} (hst : Undisturbed s t) (htu : Undisturbed t u) : Undisturbed s u :=
  ⟨hst.fsr.trans htu.fsr, htu.events.trans hst.events⟩

/-- While a frame is held, the quiet operations that are enabled are commands (R100). -/
theorem Operation.eq_ctl_of_held {op : Operation} {s : State} (hh : s.hold = true) (hq : op.quiet = true)
    (hen : op.enabled s = true) : ∃ w, op = .ctl w := by
  cases op with
  | rst => cases hq
  | rx b => simp [Operation.enabled, hh] at hen
  | ctl w => exact ⟨w, rfl⟩

/-- A quiet run from a held frame takes no byte and disturbs no frame (R210). -/
theorem Run.undisturbed_of_held {s t : State} {ops : List Operation} (h : Run s ops t) (hh : s.hold = true)
    (hq : ∀ op ∈ ops, op.quiet = true) : rxBytes ops = [] ∧ Undisturbed s t := by
  induction h with
  | nil s => exact ⟨rfl, rfl, rfl⟩
  | cons hen hop _ ih =>
    obtain ⟨hquiet, hrest⟩ := List.forall_mem_cons.1 hq
    obtain ⟨w, rfl⟩ := Operation.eq_ctl_of_held hh hquiet hen
    have hstep := perform_quiet_ctl_undisturbed hquiet hop
    obtain ⟨hrx, hrun⟩ := ih (hstep.fsr.hold_eq.trans hh) hrest
    exact ⟨hrx, hstep.trans hrun⟩

/-- Settles O51: the quiet run disturbs neither the held frame nor the events of the `Rx` steps. -/
theorem handOffsDoNotNest : Obligations.HandOffsDoNotNest := by
  unfold Obligations.HandOffsDoNotNest
  intro s t ops hh hq hrun
  obtain ⟨hrx, hsame, hevents⟩ := hrun.undisturbed_of_held hh hq
  have hframes : t.frameEvents = s.frameEvents := by rw [State.frameEvents_eq, State.frameEvents_eq, hevents]
  rw [hsame]
  exact ⟨hh, hrx, hframes, rfl, rfl, rfl, rfl⟩

/-! ### Recovery -/

/-- Settles O56: `CANCEL` and `Rst` go on in every state, and with the invariant so does every byte. -/
theorem noStateIsFatal : Obligations.NoStateIsFatal := by
  unfold Obligations.NoStateIsFatal
  intro s hi
  exact ⟨⟨_, cancelStep.2 s, rfl, rfl⟩, ⟨_, rfl, rfl, rfl⟩,
    fun hh b => ⟨by simp [Operation.enabled, hh], hi.perform_goesOn (.rx b)⟩⟩

end Sys2Proof.Machine

/-! The family 70_reset_and_hazards.md: what `Rst` does (R240), that an asserted `rst` goes before the ports (R241), and what weak fairness of the ports gives (R249). -/

namespace Sys2Proof.Machine

/-! ### Power-on reset -/

/-- Settles O2: the next state is power-on reset. -/
theorem rstForgetsRegistersAndBuffer : Obligations.RstForgetsRegistersAndBuffer := by
  unfold Obligations.RstForgetsRegistersAndBuffer
  exact fun s => ⟨s.powerOnReset, rfl, rfl, rfl, Written.has_none, fun _ => rfl, rfl⟩

/-- While `rst` is asserted, `Rst` is what a step takes (R241). -/
theorem State.take_rst {s : State} (hrst : s.rst = true) : s.take = some (.rst, { s with rst := false }) :=
  if_pos hrst

/-- Settles O3: the step takes `Rst`, which leaves the ports and the event log alone. -/
theorem assertedRstGoesBeforeThePorts : Obligations.AssertedRstGoesBeforeThePorts := by
  unfold Obligations.AssertedRstGoesBeforeThePorts
  exact fun s hrst => ⟨_, step_of_take (State.take_rst hrst), rfl, rfl, rfl, rfl⟩

/-! ### What a step leaves at the ports -/

/-- What an operation leaves alone once its transfer is taken: the transfers still offered, and the arbiter's counter. -/
structure SamePorts (s t : State) : Prop where
  rx : t.rx = s.rx
  ctl : t.ctl = s.ctl
  arb : t.arb = s.arb

/-- An `Rx` leaves the words offered and the arbiter's counter alone. -/
theorem exec_rx_keepsCtl {st : St} {b : Byte} {s t : State} (h : exec (decodeRx st b) s = .next t) :
    t.ctl = s.ctl ∧ t.arb = s.arb := by
  cases st with
  | waitSync1 | waitSync2 | cls | id | lenLo | lenHi => cases h; simp
  | payload => obtain ⟨-, rfl⟩ := execRxPayload_next h; simp
  | ckA => rcases execRxCkA_next h with ⟨-, rfl⟩ | ⟨-, rfl⟩ <;> simp
  | ckB => rcases execRxCkB_next h with ⟨-, rfl⟩ | ⟨-, rfl⟩ <;> simp

/-- No operation touches the transfers still offered or the arbiter's counter. -/
theorem perform_samePorts {op : Operation} {s t : State} (h : perform op s = .next t) : SamePorts s t := by
  suffices hctl : t.ctl = s.ctl ∧ t.arb = s.arb from ⟨perform_keepsPort h, hctl.1, hctl.2⟩
  cases op with
  | rst => cases h; exact ⟨rfl, rfl⟩
  | rx b => exact exec_rx_keepsCtl h
  | ctl w =>
    rcases exec_command_next (decodeCtl_format w) h with ⟨-, -, rfl⟩ | ⟨-, rfl⟩ | hsame
    · exact ⟨rfl, rfl⟩
    · exact ⟨rfl, rfl⟩
    · rw [hsame]; exact ⟨rfl, rfl⟩

/-- A step removes the first transfer of the port it takes from, and leaves the other queue as it is. -/
theorem step_queues {s t : State} (h : step s = .next t) :
    t.rx = (if s.takesRx then s.rx.tail else s.rx) ∧ t.ctl = (if s.takesCtl then s.ctl.tail else s.ctl) := by
  rcases step_cases s with ⟨hnone, hpark⟩ | ⟨op, u, htake, hstep⟩
  · cases hpark.symm.trans h
    simp [State.takesRx, State.takesCtl, hnone]
  · have hports := perform_samePorts (hstep.symm.trans h)
    rw [hports.rx, hports.ctl]
    rcases (State.take_some htake).2 with ⟨rfl, -, rfl⟩ | ⟨b, bs, rfl, -, -, hrx, rfl | rfl⟩ |
      ⟨w, ws, rfl, -, hctl, rfl | rfl⟩ <;> simp [State.takesRx, State.takesCtl, *]

/-- Both ports offer a transfer, and either may be taken: the free arbiter chooses (R48). -/
structure State.Contested (s : State) : Prop where
  ready : s.rxReady = true
  byte : s.rx ≠ []
  word : s.ctl ≠ []

/-- A contested step takes from the port the arbiter chooses, and counts the choice. -/
theorem State.Contested.served {s : State} (hs : s.Contested) :
    s.takesRx = Config.rxFirst s.arb ∧ s.takesCtl = !Config.rxFirst s.arb ∧
      ∀ t, step s = .next t → t.arb = s.arb + 1 := by
  obtain ⟨b, bs, hrx⟩ := List.exists_cons_of_ne_nil hs.byte
  obtain ⟨w, ws, hctl⟩ := List.exists_cons_of_ne_nil hs.word
  have htake := State.take_contested hs.ready hrx hctl
  cases hfirst : Config.rxFirst s.arb <;> rw [hfirst] at htake <;>
    exact ⟨by simp [State.takesRx, htake], by simp [State.takesCtl, htake],
      fun t h => (perform_samePorts ((step_of_take htake).symm.trans h)).arb⟩

/-- A byte at a ready `rx` is passed over only for a word the arbiter chooses. -/
theorem State.contested_of_byte_passed {s : State} (hready : s.rxReady = true) (hrx : s.rx ≠ [])
    (hpassed : s.takesRx ≠ true) : s.Contested ∧ Config.rxFirst s.arb = false := by
  have hs : s.Contested := by
    refine ⟨hready, hrx, fun hctl => hpassed ?_⟩
    obtain ⟨b, bs, hb⟩ := List.exists_cons_of_ne_nil hrx
    simp [State.takesRx, State.take_rx hready hb hctl]
  exact ⟨hs, by simpa [hs.served.1] using hpassed⟩

/-- A word at a ready `ctl` is passed over only for a byte the arbiter chooses. -/
theorem State.contested_of_word_passed {s : State} (hready : s.ctlReady = true) (hctl : s.ctl ≠ [])
    (hpassed : s.takesCtl ≠ true) : s.Contested ∧ Config.rxFirst s.arb = true := by
  obtain ⟨w, ws, hw⟩ := List.exists_cons_of_ne_nil hctl
  have hfree : ¬ (s.hold = true ∨ s.rx = []) := fun hx =>
    hpassed (by simp [State.takesCtl, State.take_ctl hready hw hx])
  obtain ⟨hhold, hrx⟩ := not_or.1 hfree
  have hs : s.Contested := ⟨by simpa [State.rxReady, hhold, State.ctlReady] using hready, hrx, hctl⟩
  exact ⟨hs, by simpa [hs.served.2.1] using hpassed⟩

/-! ### Weak fairness, or a constant arbiter -/

/-- When all steps from `n` on are contested and go one way, the arbiter is constant from its counter's value at `n` on:
every step advances the counter by one choice. -/
theorem Trace.rxFirst_constant {σ : Nat → State} {o : Nat → Offer} {n : Nat} {v : Bool} (hσ : Trace σ o)
    (hall : ∀ m, n ≤ m → ((σ m).offer (o m)).Contested ∧ Config.rxFirst (σ m).arb = v) :
    ∀ k, (σ n).arb ≤ k → Config.rxFirst k = v := by
  have hcounts : ∀ j, (σ (n + j)).arb = (σ n).arb + j := by
    intro j
    induction j with
    | zero => rfl
    | succ j ih =>
      have hnext := (hall (n + j) (by omega)).1.served.2.2 _ (hσ (n + j))
      rw [← Nat.add_assoc, hnext, State.offer_arb, ih, Nat.add_assoc]
  intro k hk
  obtain ⟨j, rfl⟩ := Nat.exists_eq_add_of_le hk
  rw [← hcounts]
  exact (hall (n + j) (by omega)).2

/-- A run is weakly fair, or the arbiter is constant from some choice on: a transfer that is passed over for ever is
passed over for the same port each time. -/
theorem Trace.weaklyFair_or_constant {σ : Nat → State} {o : Nat → Offer} (hσ : Trace σ o) :
    WeaklyFair σ o ∨ ∃ (c : Nat) (v : Bool), ∀ k, c ≤ k → Config.rxFirst k = v := by
  refine or_iff_not_imp_right.2 fun hvaries => ⟨fun n hwaits => ?_, fun n hwaits => ?_⟩
  · by_contra hpassed
    refine hvaries ⟨(σ n).arb, false, hσ.rxFirst_constant fun m hm => ?_⟩
    obtain ⟨hready, hrx⟩ := hwaits m hm
    exact State.contested_of_byte_passed hready hrx fun htakes => hpassed ⟨m, hm, htakes⟩
  · by_contra hpassed
    refine hvaries ⟨(σ n).arb, true, hσ.rxFirst_constant fun m hm => ?_⟩
    obtain ⟨hready, hctl⟩ := hwaits m hm
    exact State.contested_of_word_passed hready hctl fun htakes => hpassed ⟨m, hm, htakes⟩

/-! ### A queue that is served fairly -/

section Queue

variable {α : Type} {q a : Nat → List α} {served : Nat → Bool} {n k : Nat} {l : List α}

/-- What arrives before the steps `n`, ..., `n + k - 1`, in order. -/
def arrivals (a : Nat → List α) (n k : Nat) : List α := (List.range k).flatMap fun j => a (n + j)

theorem arrivals_succ (a : Nat → List α) (n k : Nat) : arrivals a n (k + 1) = arrivals a n k ++ a (n + k) := by
  simp [arrivals, List.range_succ]

/-- The bytes offered are what arrives at `rx`. -/
theorem arrivals_rx (o : Nat → Offer) (n k : Nat) : arrivals (fun m => (o m).rx) n k = offeredRx o n k := rfl

/-- The words offered are what arrives at `ctl`. -/
theorem arrivals_ctl (o : Nat → Offer) (n k : Nat) : arrivals (fun m => (o m).ctl) n k = offeredCtl o n k := rfl

/-- One port over a run: `q m` is its queue before step `m`, and `a m` what arrives behind it then. A served step removes
the first transfer, another none; and from `n` on, a queue that is never empty is served again. -/
structure FairQueue (q a : Nat → List α) (served : Nat → Bool) (n : Nat) : Prop where
  step : ∀ m, q (m + 1) = if served m then (q m ++ a m).tail else q m ++ a m
  fair : ∀ m, n ≤ m → (∀ i, m ≤ i → q i ++ a i ≠ []) → ∃ i, m ≤ i ∧ served i = true

/-- What arrives next stands behind the backlog and the earlier arrivals. -/
theorem backlog_arrival (hl : q (n + k) <:+ l ++ arrivals a n k) :
    q (n + k) ++ a (n + k) <:+ l ++ arrivals a n (k + 1) := by
  rw [arrivals_succ, ← List.append_assoc]
  exact List.suffix_append_self_iff.2 hl

/-- A queue that holds at most a backlog `l` and the arrivals keeps within them. -/
theorem FairQueue.backlog_kept (hq : FairQueue q a served n) (hl : q (n + k) <:+ l ++ arrivals a n k) (j : Nat) :
    q (n + (k + j)) <:+ l ++ arrivals a n (k + j) := by
  induction j with
  | zero => exact hl
  | succ j ih =>
    have hstep := hq.step (n + (k + j))
    split at hstep
    · exact hstep ▸ (List.tail_suffix _).trans (backlog_arrival ih)
    · exact hstep ▸ backlog_arrival ih

/-- Again and again a step leaves the queue without its first transfer: it is served, or the queue was empty. -/
theorem FairQueue.loses_first (hq : FairQueue q a served n) (m : Nat) (hm : n ≤ m) :
    ∃ i, m ≤ i ∧ q (i + 1) = (q i ++ a i).tail := by
  by_cases hfull : ∀ i, m ≤ i → q i ++ a i ≠ []
  · obtain ⟨i, hi, hserved⟩ := hq.fair m hm hfull
    exact ⟨i, hi, by rw [hq.step, if_pos hserved]⟩
  · obtain ⟨i, hi, hempty⟩ : ∃ i, m ≤ i ∧ q i ++ a i = [] := by simpa using hfull
    exact ⟨i, hi, by simp [hq.step, hempty]⟩

/-- The tail of a list that ends `x :: l` ends `l`. -/
theorem tail_suffix_of_suffix_cons {x : α} {l' : List α} (h : l' <:+ x :: l) : l'.tail <:+ l := by
  rcases List.suffix_cons_iff.1 h with rfl | h
  · exact List.suffix_refl l
  · exact (List.tail_suffix l').trans h

/-- A backlog is eventually taken whole, by induction on it: only arrivals are left. -/
theorem FairQueue.backlog_taken (hq : FairQueue q a served n) (hl : q (n + k) <:+ l ++ arrivals a n k) :
    ∃ k', q (n + k') <:+ arrivals a n k' := by
  induction l generalizing k with
  | nil => exact ⟨k, hl⟩
  | cons x l ih =>
    obtain ⟨i, hi, hloses⟩ := hq.loses_first (n + k) (Nat.le_add_right n k)
    obtain ⟨j, rfl⟩ := Nat.exists_eq_add_of_le hi
    rw [Nat.add_assoc n k j] at hloses
    have hbehind := backlog_arrival (hq.backlog_kept hl j)
    exact ih (k := k + j + 1) (hloses.symm ▸ tail_suffix_of_suffix_cons hbehind)

/-- What is queued at `n` is eventually taken. -/
theorem FairQueue.queued_taken (hq : FairQueue q a served n) : ∃ k, q (n + k) <:+ arrivals a n k :=
  hq.backlog_taken (k := 0) (l := q n) (by simp [arrivals])

end Queue

section WeaklyFair

variable {σ : Nat → State} {o : Nat → Offer} {n : Nat}

/-- In a weakly fair run without further reset, `ctl` is a fair queue. -/
theorem WeaklyFair.ctl_fairQueue (hσ : Trace σ o) (hfair : WeaklyFair σ o)
    (hrst : ∀ m, n ≤ m → ((σ m).offer (o m)).rst = false) :
    FairQueue (fun m => (σ m).ctl) (fun m => (o m).ctl) (fun m => ((σ m).offer (o m)).takesCtl) n where
  step m := (step_queues (hσ m)).2
  fair m hm hfull := hfair.ctl m fun i hi => ⟨by rw [State.ctlReady, hrst i (hm.trans hi)]; rfl, hfull i hi⟩

/-- In a weakly fair run without further reset and with no frame held, `rx` is a fair queue. -/
theorem WeaklyFair.rx_fairQueue (hσ : Trace σ o) (hfair : WeaklyFair σ o)
    (hrst : ∀ m, n ≤ m → ((σ m).offer (o m)).rst = false) (hhold : ∀ m, n ≤ m → (σ m).hold = false) :
    FairQueue (fun m => (σ m).rx) (fun m => (o m).rx) (fun m => ((σ m).offer (o m)).takesRx) n where
  step m := (step_queues (hσ m)).1
  fair m hm hfull := hfair.rx m fun i hi =>
    ⟨by rw [State.rxReady, hrst i (hm.trans hi), State.offer_hold, hhold i (hm.trans hi)]; rfl, hfull i hi⟩

end WeaklyFair

/-- Settles O43: the run is fair or the arbiter constant, and in a fair run each ready port is a fair queue. -/
theorem weakFairnessServesBothPorts : Obligations.WeakFairnessServesBothPorts := by
  unfold Obligations.WeakFairnessServesBothPorts
  intro σ o hσ
  refine ⟨hσ.weaklyFair_or_constant, fun hfair n hrst => ⟨?_, fun hhold => ?_⟩⟩
  · simpa only [arrivals_ctl] using (hfair.ctl_fairQueue hσ hrst).queued_taken
  · simpa only [arrivals_rx] using (hfair.rx_fairQueue hσ hrst hhold).queued_taken

end Sys2Proof.Machine
